-- ==== Sys2Proof/Word.lean ====
section
/-! DEFINITION. The widths of the J416: words, beats, addresses, and the numbers that name its parts. -/

namespace Sys2Proof

/-- A word of the register window (12.1). -/
abbrev Word := BitVec 32

/-- A word address of the management port (R181). -/
abbrev WordAddr := BitVec 16

/-- A beat: 16 bytes of data (00_scope, Conventions). -/
abbrev Beat := BitVec 128

/-- A source number, 0 to 63: a 6-bit field that the match list masks bit by bit (R2, 11.9). -/
abbrev Source := BitVec 6

/-- A 40-bit byte address (11.9). -/
abbrev Address := BitVec 40

/-- A page number, 0 to 2^28 - 1 (R1). -/
abbrev Page := BitVec 28

/-- A stream, 0 to 15 (R13). -/
abbrev StreamId := Fin 16

/-- A phase timer, 0 to 3 (R120). -/
abbrev TimerId := Fin 4

/-- A notice source, 0 to 23 (R139). -/
abbrev NoticeId := Fin 24

/-- A timebase tap, 0 to 15 (R119). -/
abbrev Tap := Fin 16

/-- A set of streams as a command's mask: bit n selects stream n (R187). -/
abbrev StreamMask := BitVec 16

/-- A set of timers as a command's mask: bit t selects timer t (R187). -/
abbrev TimerMask := BitVec 4

end Sys2Proof
end

