-- ==== Sys2Proof/Syntax.lean ====
section
/-! DEFINITION. The commands of the J416: one constructor of Instr for each row of spec/opcode_table.json, and the
operands they carry. -/

namespace Sys2Proof

/-- Kind of a request (11.9). -/
inductive Kind where
  | read
  | write
  deriving DecidableEq, Repr

/-- A request as offered on UP and on DOWN (R173, 11.9). The data of a WRITE is as many beats as the beats field
says; a READ carries none. -/
structure Request where
  source : Source
  kind : Kind
  address : Address
  beats : BitVec 8
  data : List Beat
  deriving DecidableEq, Repr

/-- A response as offered on DOWN (R176, 11.9). -/
structure Response where
  source : Source
  status : BitVec 3
  dataBeats : BitVec 5
  data : List Beat
  deriving DecidableEq, Repr

/-- The two channels on which a partner offers to the regulator (R172). -/
inductive Channel where
  | upRequest
  | downResponse
  deriving DecidableEq, Repr

/-- The cycle inputs (R122). -/
inductive CyclePin where
  | cycle0
  | cycle1
  deriving DecidableEq, Repr

/-- What causes a frame start (R127). -/
inductive FrameCause where
  | tick
  | syncEdge
  | restart
  deriving DecidableEq, Repr

/-- Where in a frame CSn rises (R181, R184): with no SCLK edge since the frame's start or the last part of it that is
complete (the header, the turnaround byte, a word), or with some but not all of the next part sampled. DESIGN CHOICE
(log 32): R183 names a capture for each later word of a READ frame and does not say whether the last bit of the frame's
last word makes one too; a rise after a whole word is between with that capture made, by a row of its own, or without. -/
inductive FrameCut where
  | between
  | partway
  deriving DecidableEq, Repr

/-- The fields of the staging entry (R7), in the order of 020h to 025h. -/
inductive StagingField where
  | sourceValue
  | sourceMask
  | kindFilter
  | pageBase
  | pageLimit
  | stream
  deriving DecidableEq, Repr

/-- The stream parameters (R14), in the order of the stream block (12.3). -/
inductive Param where
  | policy
  | timer
  | windowStart
  | windowEnd
  | reload
  | creditMode
  | cap
  | holdLimit
  | issueLimit
  | ageLimit
  | ageAction
  | priority
  deriving DecidableEq, Repr

/-- The configuration fields of the notice unit (R140). -/
inductive NoticeSetting where
  | enable (x : NoticeId)
  | level (x : NoticeId)
  | route (x : NoticeId)
  | notifyAfter (x : NoticeId)
  | threshold
  | clearStyle
  deriving DecidableEq, Repr

/-- The writable registers of the window (12.3). -/
inductive Reg where
  | staging (f : StagingField)
  | pending (n : StreamId) (p : Param)
  | frameLength (t : TimerId)
  | clockSource (t : TimerId)
  | syncMode (t : TimerId)
  | winSelect (w : Fin 4)
  | notice (f : NoticeSetting)
  | cause (x : NoticeId)
  | handshakeLimit
  | ageTap
  | drainLimit
  deriving DecidableEq, Repr

/-- What a word address of the window is (R182, 12.3). -/
inductive RegKind where
  | writable (r : Reg)
  | command
  | readOnly
  | unmapped
  deriving DecidableEq, Repr

/-- A word of the command register, read as the command its code names (12.4, R187). `timerCmd` carries the
operation code of bits 10 to 8, `setMode` the operand code of bits 1 to 0, `unknown` the whole word. -/
inductive Command where
  | install (i : Fin 32)
  | remove (i : Fin 32)
  | applyNow (mask : StreamMask)
  | discardPending (mask : StreamMask)
  | streamOn (mask : StreamMask)
  | streamOff (mask : StreamMask)
  | timerCmd (mask : TimerMask) (op : BitVec 3)
  | setMode (code : BitVec 2)
  | warmReset
  | snapshot (n : StreamId) (clear : Bool)
  | unknown (word : Word)
  deriving DecidableEq, Repr

/-- The operations that byte 0 of a frame can name (R181). -/
inductive Operation where
  | read
  | write
  deriving DecidableEq, Repr

/-- The header of a frame: byte 0, and bytes 1 and 2, the high and the low byte of the starting word address (R181). -/
structure Header where
  byte : BitVec 8
  high : BitVec 8
  low : BitVec 8
  deriving DecidableEq, Repr

/-- The commands and events of the part, one constructor for each row of spec/opcode_table.json, in the table's
order. -/
inductive Instr where
  /-- REQUEST_OFFER (R32): the interconnect offers a request on UP. -/
  | requestOffer (r : Request)
  /-- OFFER_WITHDRAWN (R172): a partner lowers VALID without a take. -/
  | offerWithdrawn (c : Channel)
  /-- REQUEST_TAKE (R32): a waiting offer is taken where R32 lets it (log 2). -/
  | requestTake
  /-- GRANT (R78). -/
  | grant
  /-- ISSUE_TAKE (R81): DOWN takes the request in the issue stage. -/
  | issueTake
  /-- RESPONSE_OFFER (R90): the memory offers a response on DOWN. -/
  | responseOffer (r : Response)
  /-- ANSWER_FILL (R97). -/
  | answerFill
  /-- ANSWER_TAKE (R96): UP takes the answer. -/
  | answerTake
  /-- TAP_TICK (R119): a tick of tap k, at the timers that select it (logs 3 and 6). -/
  | tapTick (k : Tap)
  /-- CYCLE_EDGE (R122): a rising edge on a cycle input. -/
  | cycleEdge (pin : CyclePin)
  /-- FRAME_START (R127): the frame start of one timer from one cause (log 4). -/
  | frameStart (t : TimerId) (cause : FrameCause)
  /-- FRAME_START_DELIVERY (R128): a frame start of timer t is taken at stream n. -/
  | frameStartDelivery (t : TimerId) (n : StreamId)
  /-- CASCADE_TICK (R129): timer t takes the cascade tick of the timer below it. -/
  | cascadeTick (t : TimerId)
  /-- AGE_TICK (R106, R107): a tick of the tap that the age tap selects, at the users of age ticks (logs 3 and 6). -/
  | ageTick
  /-- FORCE_EXPIRY (R110): the record with this drawing number expires under FORCE (log 4). -/
  | forceExpiry (draw : Nat)
  /-- DROP_EXPIRY (R113): the record with this drawing number expires under DROP (log 4). -/
  | dropExpiry (draw : Nat)
  /-- PRESENTATION (R151). -/
  | presentation
  /-- EVACK_RISE (R152, R153). -/
  | evackRise
  /-- EVACK_FALL (R153). -/
  | evackFall
  /-- HANDSHAKE_TIMEOUT (R154): the timeout tick at the handshake timer (log 4). -/
  | handshakeTimeout
  /-- WRSTN_FALL (R161). -/
  | wrstnFall
  /-- DRAIN_TIMEOUT (R166): the timeout tick at the drain timer (log 4). -/
  | drainTimeout
  /-- WARM_RESET_COMPLETION (R167): a drain that is over ends (log 2). -/
  | warmResetCompletion
  /-- COLD_RESET (R170): RSTn falls, or power-on. -/
  | coldReset
  /-- COLD_RESET_RELEASE (R170): RSTn rises. -/
  | coldResetRelease
  /-- SPI_FRAME_START (R180): CSn falls. -/
  | spiFrameStart
  /-- UNKNOWN_OPERATION (R181): the header of a frame, whatever its byte 0 (log 15). -/
  | unknownOperation (h : Header)
  /-- SPI_FRAME_END (R181, R184): CSn rises. -/
  | spiFrameEnd (cut : FrameCut)
  /-- UNMAPPED_READ (R183): a read word is captured at an address, of any kind (log 15). -/
  | unmappedRead (addr : WordAddr)
  /-- REGISTER_WRITE (R182): a word is written to an address, of any kind (log 15). -/
  | registerWrite (addr : WordAddr) (value : Word)
  /-- STAGING_WRITE (R7). -/
  | stagingWrite (f : StagingField) (value : Word)
  /-- PENDING_WRITE (R15). -/
  | pendingWrite (n : StreamId) (p : Param) (value : Word)
  /-- FRAME_LENGTH_WRITE (R133). -/
  | frameLengthWrite (t : TimerId) (value : Word)
  /-- CLOCK_SOURCE_WRITE (R134). -/
  | clockSourceWrite (t : TimerId) (value : Word)
  /-- SYNC_MODE_WRITE (R134). -/
  | syncModeWrite (t : TimerId) (value : Word)
  /-- WIN_SELECT_WRITE (R136). -/
  | winSelectWrite (w : Fin 4) (value : Word)
  /-- NOTICE_CONFIG_WRITE (R140). -/
  | noticeConfigWrite (f : NoticeSetting) (value : Word)
  /-- CAUSE_CLEAR (R145): a cause register write under ONE_CLEARS (log 14). -/
  | causeClear (x : NoticeId) (value : Word)
  /-- CAUSE_WRITE_DIRECT (R146): a cause register write under DIRECT (log 14). -/
  | causeWriteDirect (x : NoticeId) (value : Word)
  /-- HANDSHAKE_LIMIT_WRITE (R154). -/
  | handshakeLimitWrite (value : Word)
  /-- AGE_TAP_WRITE (R106). -/
  | ageTapWrite (value : Word)
  /-- DRAIN_LIMIT_WRITE (R165). -/
  | drainLimitWrite (value : Word)
  /-- INSTALL (R8, R9). -/
  | install (i : Fin 32)
  /-- REMOVE (R10). -/
  | remove (i : Fin 32)
  /-- APPLY_NOW (R18). -/
  | applyNow (mask : StreamMask)
  /-- DISCARD_PENDING (R19). -/
  | discardPending (mask : StreamMask)
  /-- STREAM_ON (R26). -/
  | streamOn (mask : StreamMask)
  /-- STREAM_OFF (R26). -/
  | streamOff (mask : StreamMask)
  /-- START (R131). -/
  | start (mask : TimerMask)
  /-- STOP (R131). -/
  | stop (mask : TimerMask)
  /-- RESTART (R132). -/
  | restart (mask : TimerMask)
  /-- START_RESTART (R132). -/
  | startRestart (mask : TimerMask)
  /-- SET_MODE (R159). -/
  | setMode (code : BitVec 2)
  /-- WARM_RESET (R161). -/
  | warmReset
  /-- SNAPSHOT (R189). -/
  | snapshot (n : StreamId) (clear : Bool)
  /-- UNKNOWN_COMMAND (R187): the word's code names no command. -/
  | unknownCommand (word : Word)
  /-- TIMER_CMD_UNKNOWN_OPERATION (R130): the operation code names none of the four operations. -/
  | timerCmdUnknownOperation (mask : TimerMask) (op : BitVec 3)
  deriving DecidableEq, Repr

end Sys2Proof
end

