-- ==== Sys2Proof/WellFormed.lean ====
section
/-! DEFINITION. Which commands are ones that the part's pins and ports can carry: the operand checks that the types
do not make. -/

namespace Sys2Proof

/-- A request's data is what its header announces (R173): a WRITE's beats field counts its beats, a READ has none. -/
def Request.carriesItsBeats (r : Request) : Bool :=
  match r.kind with
  | .read => r.data.isEmpty
  | .write => r.data.length == r.beats.toNat

/-- A response's data is what its header announces, a count above 16 read as 16 (R176). -/
def Response.carriesItsBeats (r : Response) : Bool :=
  r.data.length == min r.dataBeats.toNat 16

/-- The code of a command word names one of the commands of 12.4. -/
def commandCodeNamed (code : BitVec 8) : Bool :=
  1 ≤ code.toNat && code.toNat ≤ 10

/-- The operation code of a TIMER_CMD names one of its four operations (12.4). -/
def timerOpNamed (op : BitVec 3) : Bool :=
  1 ≤ op.toNat && op.toNat ≤ 4

/-- The command is one that its row of the table describes: the offered transfers carry their beats, and the rows
for unknown codes carry a code that is unknown. -/
def Instr.wellFormed : Instr → Bool
  | .requestOffer r => r.carriesItsBeats
  | .responseOffer r => r.carriesItsBeats
  | .unknownCommand word => !commandCodeNamed (word.extractLsb' 24 8)
  | .timerCmdUnknownOperation _ op => !timerOpNamed op
  | .offerWithdrawn _ | .requestTake | .grant | .issueTake | .answerFill | .answerTake | .tapTick _ | .cycleEdge _
  | .frameStart _ _ | .frameStartDelivery _ _ | .cascadeTick _ | .ageTick | .forceExpiry _ | .dropExpiry _
  | .presentation | .evackRise | .evackFall | .handshakeTimeout | .wrstnFall | .drainTimeout
  | .warmResetCompletion | .coldReset | .coldResetRelease | .spiFrameStart | .unknownOperation _ | .spiFrameEnd _
  | .unmappedRead _ | .registerWrite _ _ | .stagingWrite _ _ | .pendingWrite _ _ _ | .frameLengthWrite _ _ | .clockSourceWrite _ _
  | .syncModeWrite _ _ | .winSelectWrite _ _ | .noticeConfigWrite _ _ | .causeClear _ _ | .causeWriteDirect _ _
  | .handshakeLimitWrite _ | .ageTapWrite _ | .drainLimitWrite _ | .install _ | .remove _ | .applyNow _
  | .discardPending _ | .streamOn _ | .streamOff _ | .start _ | .stop _ | .restart _ | .startRestart _
  | .setMode _ | .warmReset | .snapshot _ _ => true

end Sys2Proof
end

