-- ==== Sys2Proof/Decode.lean ====
section
/-! DEFINITION. Reading the management port's numbers: which register a word address is, which command a command
word names, both with their encoders, the header of a frame, and decodeTableWord. -/

namespace Sys2Proof

/-! ### Word addresses (12.3) -/

/-- The parameter at an offset of the pending set, 00h to 0Bh, or of the live set less 10h. -/
def paramAt : Nat → Option Param
  | 0x0 => some .policy
  | 0x1 => some .timer
  | 0x2 => some .windowStart
  | 0x3 => some .windowEnd
  | 0x4 => some .reload
  | 0x5 => some .creditMode
  | 0x6 => some .cap
  | 0x7 => some .holdLimit
  | 0x8 => some .issueLimit
  | 0x9 => some .ageLimit
  | 0xA => some .ageAction
  | 0xB => some .priority
  | _ => none

/-- The offset of a parameter in the pending set. -/
def Param.offset : Param → Nat
  | .policy => 0x0
  | .timer => 0x1
  | .windowStart => 0x2
  | .windowEnd => 0x3
  | .reload => 0x4
  | .creditMode => 0x5
  | .cap => 0x6
  | .holdLimit => 0x7
  | .issueLimit => 0x8
  | .ageLimit => 0x9
  | .ageAction => 0xA
  | .priority => 0xB

/-- The staging field at an offset from 020h. -/
def stagingAt : Nat → Option StagingField
  | 0 => some .sourceValue
  | 1 => some .sourceMask
  | 2 => some .kindFilter
  | 3 => some .pageBase
  | 4 => some .pageLimit
  | 5 => some .stream
  | _ => none

/-- The offset of a staging field from 020h. -/
def StagingField.offset : StagingField → Nat
  | .sourceValue => 0
  | .sourceMask => 1
  | .kindFilter => 2
  | .pageBase => 3
  | .pageLimit => 4
  | .stream => 5

/-- The device group, 000h to 00Fh. -/
def deviceKind : Nat → RegKind
  | 0x1 => .command
  | 0x3 => .writable (.notice .clearStyle)
  | 0x4 => .writable (.notice .threshold)
  | 0x6 => .writable .ageTap
  | 0x7 => .writable .drainLimit
  | 0x8 => .writable .handshakeLimit
  | 0x9 => .writable (.winSelect 0)
  | 0xA => .writable (.winSelect 1)
  | 0xB => .writable (.winSelect 2)
  | 0xC => .writable (.winSelect 3)
  | _ => .readOnly

/-- An offset of the block of stream n. -/
def streamKind (n : StreamId) (o : Nat) : RegKind :=
  match paramAt o with
  | some p => .writable (.pending n p)
  | none =>
    if (0x10 ≤ o ∧ o ≤ 0x1B) ∨ (0x20 ≤ o ∧ o ≤ 0x23) ∨ (0x28 ≤ o ∧ o ≤ 0x2E) then .readOnly else .unmapped

/-- An offset of the block of timer t. -/
def timerKind (t : TimerId) : Nat → RegKind
  | 2 => .writable (.frameLength t)
  | 5 => .writable (.clockSource t)
  | 6 => .writable (.syncMode t)
  | 0 | 1 | 3 | 4 => .readOnly
  | _ => .unmapped

/-- An offset of the block of notice source x. -/
def noticeKind (x : NoticeId) : Nat → RegKind
  | 0 => .writable (.cause x)
  | 1 => .writable (.notice (.enable x))
  | 2 => .writable (.notice (.level x))
  | 3 => .writable (.notice (.route x))
  | 4 => .writable (.notice (.notifyAfter x))
  | _ => .unmapped

/-- What the word at an address is (12.3). -/
def addrKind (a : WordAddr) : RegKind :=
  let n := a.toNat
  if n < 0x010 then deviceKind n
  else if n < 0x020 then .unmapped
  else if n < 0x040 then
    match stagingAt (n - 0x020) with
    | some f => .writable (.staging f)
    | none => .unmapped
  else if n < 0x0C0 then .readOnly
  else if n < 0x100 then .unmapped
  else if n < 0x500 then streamKind (Fin.ofNat 16 ((n - 0x100) / 0x40)) ((n - 0x100) % 0x40)
  else if n < 0x520 then timerKind (Fin.ofNat 4 ((n - 0x500) / 8)) ((n - 0x500) % 8)
  else if n < 0x600 then .unmapped
  else if n < 0x6C0 then noticeKind (Fin.ofNat 24 ((n - 0x600) / 8)) ((n - 0x600) % 8)
  else if n < 0x700 then .unmapped
  else if n < 0x703 then .readOnly
  else if n < 0x780 then .unmapped
  else if n < 0x78B then .readOnly
  else .unmapped

/-- The word address of a notice setting. -/
def NoticeSetting.addr : NoticeSetting → WordAddr
  | .clearStyle => 0x003#16
  | .threshold => 0x004#16
  | .enable x => BitVec.ofNat 16 (0x601 + 8 * x.val)
  | .level x => BitVec.ofNat 16 (0x602 + 8 * x.val)
  | .route x => BitVec.ofNat 16 (0x603 + 8 * x.val)
  | .notifyAfter x => BitVec.ofNat 16 (0x604 + 8 * x.val)

/-- The word address of a writable register (12.3). -/
def Reg.addr : Reg → WordAddr
  | .staging f => BitVec.ofNat 16 (0x020 + f.offset)
  | .pending n p => BitVec.ofNat 16 (0x100 + 0x40 * n.val + p.offset)
  | .frameLength t => BitVec.ofNat 16 (0x502 + 8 * t.val)
  | .clockSource t => BitVec.ofNat 16 (0x505 + 8 * t.val)
  | .syncMode t => BitVec.ofNat 16 (0x506 + 8 * t.val)
  | .winSelect w => BitVec.ofNat 16 (0x009 + w.val)
  | .notice f => f.addr
  | .cause x => BitVec.ofNat 16 (0x600 + 8 * x.val)
  | .handshakeLimit => 0x008#16
  | .ageTap => 0x006#16
  | .drainLimit => 0x007#16

/-- The word address of the command register (12.3). -/
def commandAddr : WordAddr := 0x001#16

/-! ### Command words (12.4) -/

/-- The command a word of the command register names: the code in bits 31 to 24, the operands in the low bits, bits
a command does not use ignored (R187). -/
def decodeCommand (w : Word) : Command :=
  let n := w.toNat
  match (w.extractLsb' 24 8).toNat with
  | 0x01 => .install (Fin.ofNat 32 n)
  | 0x02 => .remove (Fin.ofNat 32 n)
  | 0x03 => .applyNow (w.extractLsb' 0 16)
  | 0x04 => .discardPending (w.extractLsb' 0 16)
  | 0x05 => .streamOn (w.extractLsb' 0 16)
  | 0x06 => .streamOff (w.extractLsb' 0 16)
  | 0x07 => .timerCmd (w.extractLsb' 0 4) (w.extractLsb' 8 3)
  | 0x08 => .setMode (w.extractLsb' 0 2)
  | 0x09 => .warmReset
  | 0x0A => .snapshot (Fin.ofNat 16 n) (w.getLsbD 8)
  | _ => .unknown w

/-- The word that gives a command, with every unused bit 0 (12.4). -/
def encodeCommand : Command → Word
  | .install i => 0x01#8 ++ BitVec.ofNat 24 i.val
  | .remove i => 0x02#8 ++ BitVec.ofNat 24 i.val
  | .applyNow m => 0x03#8 ++ (0#8 ++ m)
  | .discardPending m => 0x04#8 ++ (0#8 ++ m)
  | .streamOn m => 0x05#8 ++ (0#8 ++ m)
  | .streamOff m => 0x06#8 ++ (0#8 ++ m)
  | .timerCmd m op => 0x07#8 ++ (0#13 ++ (op ++ (0#4 ++ m)))
  | .setMode c => 0x08#8 ++ (0#22 ++ c)
  | .warmReset => 0x09000000#32
  | .snapshot n c => 0x0A#8 ++ (0#15 ++ (BitVec.ofBool c ++ BitVec.ofNat 8 n.val))
  | .unknown w => w

/-- A command that some word gives: an unknown one carries a word whose code names no command. -/
def Command.wellFormed : Command → Bool
  | .unknown w => !commandCodeNamed (w.extractLsb' 24 8)
  | .install _ | .remove _ | .applyNow _ | .discardPending _ | .streamOn _ | .streamOff _ | .timerCmd _ _
  | .setMode _ | .warmReset | .snapshot _ _ => true

/-- The row of the table that a command is. -/
def Command.row : Command → Instr
  | .install i => .install i
  | .remove i => .remove i
  | .applyNow m => .applyNow m
  | .discardPending m => .discardPending m
  | .streamOn m => .streamOn m
  | .streamOff m => .streamOff m
  | .timerCmd m op =>
    match op.toNat with
    | 1 => .start m
    | 2 => .stop m
    | 3 => .restart m
    | 4 => .startRestart m
    | _ => .timerCmdUnknownOperation m op
  | .setMode c => .setMode c
  | .warmReset => .warmReset
  | .snapshot n c => .snapshot n c
  | .unknown w => .unknownCommand w

/-- The row of the table that a word written to a writable register is, for a cause register the row of the clear
style ONE_CLEARS. -/
def Reg.row : Reg → Word → Instr
  | .staging f, v => .stagingWrite f v
  | .pending n p, v => .pendingWrite n p v
  | .frameLength t, v => .frameLengthWrite t v
  | .clockSource t, v => .clockSourceWrite t v
  | .syncMode t, v => .syncModeWrite t v
  | .winSelect w, v => .winSelectWrite w v
  | .notice f, v => .noticeConfigWrite f v
  | .cause x, v => .causeClear x v
  | .handshakeLimit, v => .handshakeLimitWrite v
  | .ageTap, v => .ageTapWrite v
  | .drainLimit, v => .drainLimitWrite v

/-- The words that spell a row: the 32-bit words of the command register, by 12.4 (R187). No row of
spec/opcode_table.json has bits of its own, so no other word spells one (log 30). -/
def decodeTableWord (nbits w : Nat) : Option Instr :=
  if nbits = 32 then some (decodeCommand (BitVec.ofNat 32 w)).row else none

/-! ### Headers (12.1) -/

/-- The operation that a byte 0 names: C5h READ, CAh WRITE (R181). -/
def decodeOperation (byte : BitVec 8) : Option Operation :=
  if byte = 0xC5#8 then some .read else if byte = 0xCA#8 then some .write else none

/-- The starting word address that bytes 1 and 2 form, byte 1 its high byte (R181). -/
def Header.start (h : Header) : WordAddr := h.high ++ h.low

end Sys2Proof
end

