-- ==== Sys2Proof/Config.lean ====
section
/-! DEFINITION. What the part fixes once: its capacities, and the free values of the model. -/

namespace Sys2Proof.Config

/-- Store records (R46). -/
def storeCapacity : Nat := 96

/-- Order entries, ABANDONED ones included (R85). -/
def orderCapacity : Nat := 256

/-- Beats of the write data buffer (R50). -/
def bufferBeats : Nat := 1024

/-- Entries of the handshake queue (R148). -/
def handshakeCapacity : Nat := 8

/-- Bytes of a page (00_scope, Conventions). -/
def pageBytes : Nat := 4096

/-- Bytes of a beat (00_scope, Conventions). -/
def beatBytes : Nat := 16

/-- Greatest credit, cap and reload, in beats (R14, R24). -/
def maxCredit : Nat := 16383

/-- FREE VALUE (log 5, log 2). The k-th choice the hardware makes where the spec leaves an order open: the order in
which the causes of one event reach the notice unit (R139), and which of its own due events the block takes next on
an empty queue. It has no body, so no proof can see it. -/
opaque freeChoice : Nat → Nat

/-- FREE VALUE (log 27). The byte on SDO while CSn is low and no frame is in progress: R180 has SDO driven there and no
rule says with what. -/
opaque unframedByte : BitVec 8

end Sys2Proof.Config
end

