-- ==== Sys2Proof/Machine/State.lean ====
section
/-! DEFINITION. The state of the J416 as plain data, block by block, and its value right after cold reset. -/

namespace Sys2Proof.Machine

/-! ### Classifier (01) -/

/-- Kind filter of a match list entry (R1). -/
inductive KindFilter where
  | read
  | write
  | any
  deriving DecidableEq, Repr

/-- What a match list entry selects and the stream it names (R1); also the staging entry, which has no valid field
(R7). -/
structure MatchRule where
  sourceValue : Source
  sourceMask : Source
  kind : KindFilter
  pageBase : Page
  pageLimit : Page
  stream : StreamId
  deriving DecidableEq, Repr

/-- A match list entry (R1). -/
structure MatchEntry where
  valid : Bool
  rule : MatchRule
  deriving DecidableEq, Repr

/-! ### Stream records (02) -/

/-- Policy of a stream (R14). -/
inductive Policy where
  | hold
  | refuse
  | pass
  deriving DecidableEq, Repr

/-- Credit mode of a stream (R14). -/
inductive CreditMode where
  | reset
  | accumulate
  deriving DecidableEq, Repr

/-- Age action of a stream (R14). -/
inductive AgeAction where
  | force
  | drop
  deriving DecidableEq, Repr

/-- A stream's parameter set, live or pending (R14). -/
structure Params where
  policy : Policy
  timer : TimerId
  windowStart : Nat
  windowEnd : Nat
  reload : Nat
  creditMode : CreditMode
  cap : Nat
  holdLimit : Nat
  issueLimit : Nat
  ageLimit : Nat
  ageAction : AgeAction
  priority : Fin 8
  deriving DecidableEq, Repr

/-- Stream mode (R26). -/
inductive StreamMode where
  | off
  | on
  deriving DecidableEq, Repr

/-- The seven counters of a stream record, 32 bits each and wrapping (R29). -/
structure Counters where
  issuedRequests : BitVec 32
  issuedBeats : BitVec 32
  excessBeats : BitVec 32
  waitedRequests : BitVec 32
  refusedRequests : BitVec 32
  expiredRequests : BitVec 32
  memoryErrors : BitVec 32
  deriving DecidableEq, Repr

/-- A stream record (R13). `noted` is the credit-noted marker (R28). -/
structure Stream where
  live : Params
  pend : Params
  pendingValid : Bool
  mode : StreamMode
  credit : Nat
  issueCount : Nat
  noted : Bool
  counters : Counters
  deriving DecidableEq, Repr

/-! ### UP port, request store, write data buffer (03) -/

/-- Which of the three resources of R32 lack at present for the offered request (R34). -/
structure Lacking where
  order : Bool
  store : Bool
  data : Bool
  deriving DecidableEq, Repr

/-- The UP request channel and the arrival sequence counter (R172, R37). `draws` is the model's own: the number of
takes since cold reset, which is the drawing order that R37 has the regulator keep (log 11). -/
structure UpPort where
  offer : Option Request
  lacking : Lacking
  seq : BitVec 32
  draws : Nat
  deriving DecidableEq, Repr

/-- A store record (R43). `draw` is its place in the drawing order (R37), `writeRef` its reference to its beats in the
write data buffer, absent for a READ. -/
structure StoreRec where
  source : Source
  kind : Kind
  address : Address
  beats : Nat
  stream : StreamId
  seq : BitVec 32
  draw : Nat
  writeRef : Option Nat
  age : Option Nat
  urgent : Bool
  deriving DecidableEq, Repr

/-- Beats in use in the write data buffer, under the reference that their request holds (R50). -/
structure Alloc where
  key : Nat
  data : List Beat
  deriving DecidableEq, Repr

/-! ### Order table and answers (06) -/

/-- Answer status of a LOCAL entry (R86). -/
inductive LocalStatus where
  | refused
  | expired
  | aborted
  deriving DecidableEq, Repr

/-- State of an order entry, with the answer status and the ghost mark that a LOCAL one has (R86). -/
inductive EntryState where
  | queued
  | issued
  | made (status : LocalStatus) (ghost : Bool)
  | abandoned
  deriving DecidableEq, Repr

/-- An order entry (R86). `draw` says which taken request it stands for (log 11). -/
structure OrderEntry where
  source : Source
  stream : Option StreamId
  kind : Kind
  beats : Nat
  state : EntryState
  draw : Nat
  deriving DecidableEq, Repr

/-- Status of an answer on UP (R174). -/
inductive AnswerStatus where
  | ok
  | memerr
  | refused
  | expired
  | aborted
  deriving DecidableEq, Repr

/-- An answer in the answer stage (R96); its data beats count is the number of beats it carries (R174). -/
structure Answer where
  source : Source
  status : AnswerStatus
  data : List Beat
  deriving DecidableEq, Repr

/-- The answer stage and the local round-robin pointer (R96, R99). -/
structure AnswerBlock where
  stage : Option Answer
  ptr : Source
  deriving DecidableEq, Repr

/-! ### Issue stage and arbiter (05) -/

/-- The granted request in the issue stage (R73). -/
structure Issued where
  source : Source
  kind : Kind
  address : Address
  beats : Nat
  stream : StreamId
  writeRef : Option Nat
  deriving DecidableEq, Repr

/-- The issue stage and one round-robin pointer for each priority level (R73, R77). -/
structure IssueBlock where
  stage : Option Issued
  ptr : Vector StreamId 8
  deriving DecidableEq, Repr

/-! ### Phase timers (08) -/

/-- State of a phase timer (R120). -/
inductive TimerState where
  | stopped
  | armed
  | running
  deriving DecidableEq, Repr

/-- Clock source of a phase timer (R122). -/
inductive ClockSource where
  | tap (k : Tap)
  | cycle0
  | cycle1
  | cascade
  deriving DecidableEq, Repr

/-- Sync mode of a phase timer (R123). -/
inductive SyncMode where
  | free
  | sync0
  | sync1
  deriving DecidableEq, Repr

/-- A phase timer (R120). -/
structure Timer where
  state : TimerState
  count : Nat
  frameLength : Nat
  pendingLength : Nat
  pendingValid : Bool
  clock : ClockSource
  sync : SyncMode
  deriving DecidableEq, Repr

/-! ### Notice unit and event handshake (09) -/

/-- The causes (R139). Two causes of different sources that share a name are distinct: `overflow` is a stream
source's, `hsOverflow` is that of source 21. -/
inductive Cause where
  | credit
  | refused
  | overflow
  | expired
  | memerr
  | wrap
  | syncMissed
  | storeLack
  | orderLack
  | dataLack
  | hsOverflow
  | timeout
  | spurious
  | malformed
  | stray
  | rejected
  | drainTimeout
  | mgmtFrame
  deriving DecidableEq, Repr

/-- A set of causes of one source, by their positions in the cause register (12.3). -/
abbrev CauseSet := BitVec 5

/-- Route of a notice source (R140). -/
inductive Route where
  | interrupt
  | handshake
  deriving DecidableEq, Repr

/-- Clear style of the notice unit (R140). -/
inductive ClearStyle where
  | oneClears
  | direct
  deriving DecidableEq, Repr

/-- A notice source (R140). -/
structure NoticeSource where
  causes : CauseSet
  enable : Bool
  level : Fin 8
  route : Route
  notifyAfter : Bool
  deriving DecidableEq, Repr

/-- An entry of the handshake queue: a source and its recorded cause set (R148). -/
structure HsEntry where
  source : NoticeId
  causes : CauseSet
  deriving DecidableEq, Repr

/-- State of the handshake port (R151). -/
inductive PortState where
  | idle
  | presenting
  | recovering
  deriving DecidableEq, Repr

/-- The notice unit and the event handshake (R140, R148, R151, R154). -/
structure Notices where
  sources : Vector NoticeSource 24
  threshold : Fin 8
  clearStyle : ClearStyle
  queue : List HsEntry
  port : PortState
  hold : Bool
  timer : Nat
  limit : Nat
  deriving DecidableEq, Repr

/-- A cause occurrence: a source and the cause raised at it (R139). -/
structure Occurrence where
  source : NoticeId
  cause : Cause
  deriving DecidableEq, Repr

/-- What one event hands to the notice unit: a cause occurrence, or an age tick at the handshake timer (R154). -/
inductive NoticeJob where
  | occur (o : Occurrence)
  | ageTick
  deriving DecidableEq, Repr

/-! ### Device control and management port (10, 12) -/

/-- Device mode (R158). -/
inductive DeviceMode where
  | bypass
  | regulate
  | draining
  deriving DecidableEq, Repr

/-- Device control: the device mode and the drain timer (R158, R165). -/
structure DeviceControl where
  mode : DeviceMode
  drainRunning : Bool
  drainTimer : Nat
  drainLimit : Nat
  deriving DecidableEq, Repr

/-- Last error code (R185). -/
inductive MgmtError where
  | none
  | addr
  | busy
  | frame
  | arg
  deriving DecidableEq, Repr

/-- Command result (R187). -/
inductive CmdResult where
  | accepted
  | refusedBusy
  | refusedArg
  deriving DecidableEq, Repr

/-- State of the SPI frame (R180 to R183): no frame; in the header; in the turnaround byte of a READ or in a word that
it has captured, or in a WRITE, with the frame's current word address; after an unknown operation. -/
inductive SpiFrame where
  | none
  | header
  | turnaround (next : WordAddr)
  | reading (next : WordAddr)
  | writing (next : WordAddr)
  | ignored
  deriving DecidableEq, Repr

/-- The snapshot record (R189). -/
structure Snapshot where
  valid : Bool
  stream : StreamId
  counters : Counters
  credit : Nat
  queueLength : Nat
  issueCount : Nat
  deriving DecidableEq, Repr

/-- The management port (R180, R183, R185, R187, R189). `selected` is the level of the pin CSn: it is low. -/
structure Mgmt where
  selected : Bool
  frame : SpiFrame
  statusByte : BitVec 8
  readWord : Word
  lastError : MgmtError
  cmdResult : CmdResult
  snapshot : Snapshot
  deriving DecidableEq, Repr

/-- A frame start made and not yet taken at a stream: the timer and the stream (R127, R128). -/
abbrev Delivery := TimerId × StreamId

/-- The J416. `pending` is the queue of commands, `freeCount` the model's count of the free choices read (log 5), and
`inReset` says that cold reset is in force (R170). `timebase` counts the REFCLK periods; `timerTicks` and `ageDue` say at
which timers, and whether at the users of age ticks, a tick of the present period is made and not yet taken (R119,
log 6). -/
structure State where
  pending : List Instr
  inReset : Bool
  matchList : Vector MatchEntry 32
  staging : MatchRule
  streams : Vector Stream 16
  up : UpPort
  store : List StoreRec
  wdb : List Alloc
  order : List OrderEntry
  answer : AnswerBlock
  downResp : Option Response
  issue : IssueBlock
  ageTap : Tap
  timebase : BitVec 15
  timerTicks : Vector Bool 4
  ageDue : Bool
  timers : Vector Timer 4
  deliveries : List Delivery
  cascades : Vector Nat 4
  winSelect : Vector (Option StreamId) 4
  nt : Notices
  dev : DeviceControl
  mgmt : Mgmt
  freeCount : Nat
  deriving DecidableEq, Repr

/-- The reasons for which the machine could stop with a fault: none. The spec reports every error in a status or a
cause and goes on, so no meaning faults (INVENTORY.md, Faults). -/
inductive Fault where
  deriving DecidableEq, Repr

/-- The reasons for which a command is refused. -/
inductive Refusal where
  /-- A command that has no meaning in the model yet, by its mnemonic; exec's arm raises it. Safe: the machine stops. -/
  | notModelled (mnemonic : String)
  deriving DecidableEq, Repr

/-! ### Cold values -/

/-- Cold value of a match rule and of the staging entry (R1, R7). -/
def MatchRule.cold : MatchRule :=
  { sourceValue := 0, sourceMask := 0, kind := .any, pageBase := 0, pageLimit := 0, stream := 0 }

/-- Cold value of a parameter set (R14). -/
def Params.cold : Params :=
  { policy := .hold, timer := 0, windowStart := 0, windowEnd := 65535, reload := 0, creditMode := .reset,
    cap := 16383, holdLimit := 96, issueLimit := 32, ageLimit := 0, ageAction := .force, priority := 0 }

/-- All seven counters at 0 (R30). -/
def Counters.zero : Counters :=
  { issuedRequests := 0, issuedBeats := 0, excessBeats := 0, waitedRequests := 0, refusedRequests := 0,
    expiredRequests := 0, memoryErrors := 0 }

/-- Cold value of a stream record (R31). -/
def Stream.cold : Stream :=
  { live := Params.cold, pend := Params.cold, pendingValid := false, mode := .off, credit := 0, issueCount := 0,
    noted := false, counters := Counters.zero }

/-- No resource lacks. -/
def Lacking.none : Lacking := { order := false, store := false, data := false }

/-- Cold value of a phase timer (R120). -/
def Timer.cold : Timer :=
  { state := .stopped, count := 0, frameLength := 65535, pendingLength := 65535, pendingValid := false,
    clock := .tap 0, sync := .free }

/-- Cold value of a notice source (R140, R157). -/
def NoticeSource.cold : NoticeSource :=
  { causes := 0, enable := false, level := 0, route := .interrupt, notifyAfter := false }

/-- Cold value of the notice unit and the event handshake (R157). -/
def Notices.cold : Notices :=
  { sources := Vector.replicate 24 NoticeSource.cold, threshold := 0, clearStyle := .oneClears, queue := [],
    port := .idle, hold := false, timer := 0, limit := 1000 }

/-- Zeros and a clear marker (R189). -/
def Snapshot.empty : Snapshot :=
  { valid := false, stream := 0, counters := Counters.zero, credit := 0, queueLength := 0, issueCount := 0 }

/-- The machine right after cold reset, at its release, with nothing waiting (R170, R171; log 7). -/
def State.reset : State :=
  { pending := []
    inReset := false
    matchList := Vector.replicate 32 { valid := false, rule := MatchRule.cold }
    staging := MatchRule.cold
    streams := Vector.replicate 16 Stream.cold
    up := { offer := none, lacking := Lacking.none, seq := 0, draws := 0 }
    store := []
    wdb := []
    order := []
    answer := { stage := none, ptr := 63 }
    downResp := none
    issue := { stage := none, ptr := Vector.replicate 8 15 }
    ageTap := 10
    timebase := 0
    timerTicks := Vector.replicate 4 false
    ageDue := false
    timers := Vector.replicate 4 Timer.cold
    deliveries := []
    cascades := Vector.replicate 4 0
    winSelect := Vector.replicate 4 none
    nt := Notices.cold
    dev := { mode := .bypass, drainRunning := false, drainTimer := 0, drainLimit := 4096 }
    mgmt :=
      { selected := false, frame := .none, statusByte := 0, readWord := 0, lastError := .none, cmdResult := .accepted,
        snapshot := Snapshot.empty }
    freeCount := 0 }

end Sys2Proof.Machine
end

