-- ==== Sys2Proof/Machine/Table.lean ====
section
/-! DEFINITION. Tables of a fixed number of like things: reading one entry, rewriting one, rewriting all. -/

namespace Sys2Proof.Machine

/-- Entry i of a table. -/
def cell {α : Type} {k : Nat} (v : Vector α k) (i : Fin k) : α := v[i]

/-- A table with entry i rewritten. -/
def updAt {α : Type} {k : Nat} (v : Vector α k) (i : Fin k) (f : α → α) : Vector α k := v.set i (f v[i])

/-- A table with every entry rewritten by its index. -/
def mapAll {α : Type} {k : Nat} (v : Vector α k) (f : Fin k → α → α) : Vector α k :=
  Vector.ofFn (fun i => f i v[i])

end Sys2Proof.Machine
end

