-- ==== Sys2Proof/Machine/Flags.lean ====
section
/-! DEFINITION. The conditions that the J416 reads from its state and does not store, and its output pins: regulated,
window, queue, credit shortfall, IRQn, URGn, TOP_NOTICE, handshake pins, occupancies, the transfers it offers, the
status byte, SDO. -/

namespace Sys2Proof.Machine

/-! ### Streams, windows, queues -/

/-- Stream n's record. -/
def State.stream (s : State) (n : StreamId) : Stream := cell s.streams n

/-- Timer t's record. -/
def State.timer (s : State) (t : TimerId) : Timer := cell s.timers t

/-- Stream n is regulated: its mode is ON and the device mode is REGULATE (R54). -/
def State.regulated (s : State) (n : StreamId) : Bool :=
  (s.stream n).mode == .on && s.dev.mode == .regulate

/-- The window of a live set is open against its bound timer (R56). -/
def Params.windowOpen (p : Params) (t : Timer) : Bool :=
  t.state != .armed && decide (p.windowStart ≤ t.count) && decide (t.count < min p.windowEnd t.frameLength)

/-- Stream n's window is open (R56). -/
def State.windowOpen (s : State) (n : StreamId) : Bool :=
  (s.stream n).live.windowOpen (s.timer (s.stream n).live.timer)

/-- Stream n's queue, head first (R47). -/
def State.queue (s : State) (n : StreamId) : List StoreRec :=
  s.store.filter (fun r => r.stream == n)

/-- The head of stream n's queue (R47). -/
def State.queueHead (s : State) (n : StreamId) : Option StoreRec :=
  s.store.find? (fun r => r.stream == n)

/-- Stream n is found short of credit in the case of a head (R71). -/
def State.headShort (s : State) (n : StreamId) : Bool :=
  s.regulated n && (s.stream n).live.policy != .pass &&
    match s.queueHead n with
    | none => false
    | some r => !r.urgent && decide ((s.stream n).credit < r.beats)

/-- The level of window output w: high while its selected stream's window is open (R136). -/
def State.winPin (s : State) (w : Fin 4) : Bool :=
  match cell s.winSelect w with
  | none => false
  | some n => s.windowOpen n

/-! ### Eligibility and arbitration (04, 05) -/

/-- The record is the head of its stream queue (R63). -/
def State.isHead (s : State) (r : StoreRec) : Bool :=
  match s.queueHead r.stream with
  | none => false
  | some h => h.draw == r.draw

/-- The oldest QUEUED entry of a source's list (R60). -/
def State.oldestQueued (s : State) (S : Source) : Option OrderEntry :=
  s.order.find? (fun e => e.source == S && e.state == .queued)

/-- The order condition: the record's order entry is the oldest QUEUED one of its source (R60). -/
def State.orderOk (s : State) (r : StoreRec) : Bool :=
  match s.oldestQueued r.source with
  | none => false
  | some e => e.draw == r.draw

/-- Part (c) of the eligibility test (R62): an issue slot, and PASS or an open window and the credit. -/
def State.slotAndPlan (s : State) (r : StoreRec) : Bool :=
  let st := s.stream r.stream
  decide (st.issueCount < st.live.issueLimit) &&
    (st.live.policy == .pass || (s.windowOpen r.stream && decide (r.beats ≤ st.credit)))

/-- The record is eligible (R62). -/
def State.eligible (s : State) (r : StoreRec) : Bool :=
  s.isHead r && s.orderOk r && (r.urgent || !s.regulated r.stream || s.slotAndPlan r)

/-- Stream n's candidate, if its head is eligible (R63). -/
def State.candidate (s : State) (n : StreamId) : Option StoreRec :=
  (s.queueHead n).filter s.eligible

/-- Stream n has a candidate and its live priority is L (R76). -/
def State.candidateAt (s : State) (L : Fin 8) (n : StreamId) : Bool :=
  (s.candidate n).isSome && (s.stream n).live.priority == L

/-- The streams in the order of the round robin after a pointer, wrapping from 15 to 0 (R76). -/
def streamsAfter (p : StreamId) : List StreamId :=
  (List.finRange 16).map (fun k => p + 1 + k)

/-- The priority levels, highest first. -/
def levelsDown : List (Fin 8) := [7, 6, 5, 4, 3, 2, 1, 0]

/-- The highest level held by a candidate (R76). -/
def State.topLevel (s : State) : Option (Fin 8) :=
  levelsDown.find? (fun L => (List.finRange 16).any (s.candidateAt L))

/-- The urgent candidate drawn first (R75): the store is in drawing order. -/
def State.urgentChoice (s : State) : Option StoreRec :=
  s.store.find? (fun r => r.urgent && s.eligible r)

/-- The candidate that the round robin of the highest level names (R76). -/
def State.plainChoice (s : State) : Option StoreRec :=
  match s.topLevel with
  | none => none
  | some L =>
    match (streamsAfter (cell s.issue.ptr L)).find? (s.candidateAt L) with
    | none => none
    | some n => s.candidate n

/-- The candidate that a grant goes to, if there is one (R75, R76). -/
def State.grantChoice (s : State) : Option StoreRec :=
  match s.urgentChoice with
  | some r => some r
  | none => s.plainChoice

/-! ### Answers (06) -/

/-- The entry awaits a memory response (R89). -/
def EntryState.responseDue : EntryState → Bool
  | .issued => true
  | .made _ ghost => ghost
  | .abandoned => true
  | .queued => false

/-- The state is LOCAL. -/
def EntryState.isLocal : EntryState → Bool
  | .made _ _ => true
  | .queued | .issued | .abandoned => false

/-- The oldest response-due entry of a source (R89, R90). -/
def State.oldestDue (s : State) (S : Source) : Option OrderEntry :=
  s.order.find? (fun e => e.source == S && e.state.responseDue)

/-- The answer front of a source (R89). -/
def State.answerFront (s : State) (S : Source) : Option OrderEntry :=
  s.order.find? (fun e => e.source == S && e.state != .abandoned)

/-- The response standing on DOWN and its entry, when the entry is ISSUED and its source's answer front (R91). -/
def State.answerable (s : State) : Option (Response × OrderEntry) :=
  match s.downResp with
  | none => none
  | some r =>
    match s.oldestDue r.source, s.answerFront r.source with
    | some m, some f => if m.state = .issued ∧ f.draw = m.draw then some (r, m) else none
    | _, _ => none

/-- The LOCAL answer front of a source, if its front is LOCAL (R97). -/
def State.localFront (s : State) (S : Source) : Option OrderEntry :=
  (s.answerFront S).filter (fun f => f.state.isLocal)

/-- The sources in the order of the local round robin after a pointer, wrapping from 63 to 0 (R99). -/
def sourcesAfter (p : Source) : List Source :=
  (List.range 64).map (fun k => p + BitVec.ofNat 6 (k + 1))

/-- The LOCAL answer front that a fill without a memory answer goes to (R99). -/
def State.localChoice (s : State) : Option OrderEntry :=
  (sourcesAfter s.answer.ptr).findSome? s.localFront

/-! ### Occupancies (R188) -/

/-- Beats in use in the write data buffer (R50). -/
def State.bufferUsed (s : State) : Nat :=
  (s.wdb.map (fun a => a.data.length)).sum

/-- Store occupancy (R46). -/
def State.storeOccupancy (s : State) : Nat := s.store.length

/-- Order occupancy, ABANDONED entries included (R85). -/
def State.orderOccupancy (s : State) : Nat := s.order.length

/-! ### Notice pins (09) -/

/-- The position of a cause in its source's cause register (12.3). -/
def Cause.bit : Cause → CauseSet
  | .credit | .wrap | .storeLack | .hsOverflow | .malformed | .rejected => 1#5
  | .refused | .syncMissed | .orderLack | .timeout | .stray | .drainTimeout => 2#5
  | .overflow | .dataLack | .spurious | .mgmtFrame => 4#5
  | .expired => 8#5
  | .memerr => 16#5

/-- The positions that name a cause of source x (12.3). -/
def causeMask (x : NoticeId) : CauseSet :=
  if x.val < 16 then 31#5
  else if x.val < 20 then 3#5
  else if x.val < 22 then 7#5
  else if x.val < 23 then 3#5
  else 7#5

/-- The cause set holds the cause. -/
def CauseSet.holds (cs : CauseSet) (c : Cause) : Bool := cs &&& c.bit != 0

/-- The source is enabled, pending and above the threshold (R142, R144). -/
def NoticeSource.qualifies (q : NoticeSource) (threshold : Fin 8) : Bool :=
  q.enable && q.causes != 0 && decide (threshold < q.level)

/-- IRQn is asserted (R142). -/
def Notices.irq (nt : Notices) : Bool :=
  (List.finRange 24).any (fun x => (cell nt.sources x).qualifies nt.threshold)

/-- URGn is asserted: a stream source's cause set holds EXPIRED (R143). -/
def Notices.urg (nt : Notices) : Bool :=
  (List.finRange 24).any (fun x => decide (x.val < 16) && CauseSet.holds (cell nt.sources x).causes .expired)

/-- The first source in number order that qualifies at level L. -/
def Notices.topAt (nt : Notices) (L : Fin 8) : Option NoticeId :=
  (List.finRange 24).find? (fun x => (cell nt.sources x).qualifies nt.threshold && (cell nt.sources x).level == L)

/-- TOP_NOTICE (R144). -/
def Notices.topNotice (nt : Notices) : Nat :=
  match levelsDown.findSome? nt.topAt with
  | some x => x.val
  | none => 31

/-- The level of EVREQ (R151). -/
def Notices.evreq (nt : Notices) : Bool := nt.port == .presenting

/-- The number on EVCODE (R151). -/
def Notices.evcode (nt : Notices) : Nat :=
  match nt.port, nt.queue with
  | .presenting, e :: _ => e.source.val
  | .presenting, [] => 0
  | .idle, _ => 0
  | .recovering, _ => 0

/-! ### The transfers the part offers (11) -/

/-- The answer on UP's response channel, none while VALID is low (R174, R179). -/
def State.upResponse (s : State) : Option Answer :=
  if s.inReset then none else s.answer.stage

/-- The data in the write data buffer under a reference. -/
def State.bufferData (s : State) (key : Nat) : List Beat :=
  match s.wdb.find? (fun a => a.key == key) with
  | some a => a.data
  | none => []

/-- The request on DOWN's request channel, none while VALID is low (R175, R179). -/
def State.downRequest (s : State) : Option Request :=
  if s.inReset then none
  else
    match s.issue.stage with
    | none => none
    | some q =>
      some
        { source := q.source, kind := q.kind, address := q.address, beats := BitVec.ofNat 8 q.beats,
          data := match q.writeRef with
            | none => []
            | some k => s.bufferData k }

/-! ### Status byte (12.1) -/

/-- The code of the last error (12.1). -/
def MgmtError.code : MgmtError → BitVec 3
  | .none => 0#3
  | .addr => 1#3
  | .busy => 2#3
  | .frame => 3#3
  | .arg => 4#3

/-- The status byte as it stands: mode, IRQn, URGn, last error (12.1, R180). -/
def State.status (s : State) : BitVec 8 :=
  BitVec.ofBool (s.dev.mode == .draining) ++ BitVec.ofBool (s.dev.mode == .regulate) ++ BitVec.ofBool s.nt.irq ++
    BitVec.ofBool s.nt.urg ++ 0#1 ++ s.mgmt.lastError.code

/-- The bytes of a word in the order in which they travel, high byte first (R183). -/
def wordBytes (w : Word) : List (BitVec 8) :=
  [w.extractLsb' 24 8, w.extractLsb' 16 8, w.extractLsb' 8 8, w.extractLsb' 0 8]

/-- What the part shifts out on SDO in the part of the frame under way, byte by byte; none where SDO is left undriven:
with CSn high and while cold reset is in force (R180, R181, R183). The header gives the captured status byte and 00h
twice, a turnaround byte and the bytes after an unknown operation give 00h, a word read gives its four bytes and a word
written four times 00h. With CSn low and no frame in progress the byte is a free value (log 27). -/
def State.sdo (s : State) : Option (List (BitVec 8)) :=
  if s.inReset || !s.mgmt.selected then none
  else
    some (match s.mgmt.frame with
      | .none => [Config.unframedByte]
      | .header => [s.mgmt.statusByte, 0, 0]
      | .turnaround _ => [0]
      | .reading _ => wordBytes s.mgmt.readWord
      | .writing _ => [0, 0, 0, 0]
      | .ignored => [0])

end Sys2Proof.Machine
end

