-- ==== Sys2Proof/Machine/Operands.lean ====
section
/-! DEFINITION. Reading the operands: a request's form and page, the match tests, the data of a transfer, and the
numbers that a register write carries, each read as a value of its field or as none. -/

namespace Sys2Proof

/-- The page number of a request's address (R2, 00_scope). -/
def Request.page (r : Request) : Page := r.address.extractLsb' 12 28

/-- The request is well formed (R38): 1 to 16 beats, an address that is a multiple of 16, no page crossing. -/
def Request.wellFormed (r : Request) : Bool :=
  decide (1 ≤ r.beats.toNat) && decide (r.beats.toNat ≤ 16) &&
    decide (r.address.toNat % Config.beatBytes = 0) &&
    decide (r.address.toNat % Config.pageBytes + r.beats.toNat * Config.beatBytes ≤ Config.pageBytes)

/-- Exactly n beats: a list's first n, each missing beat 16 bytes of zero (R176). -/
def fitBeats : Nat → List Beat → List Beat
  | 0, _ => []
  | n + 1, [] => 0 :: fitBeats n []
  | n + 1, b :: bs => b :: fitBeats n bs

/-- The read data that a response carries, a data beats count above 16 read as 16 (R176). -/
def Response.carried (r : Response) : List Beat := r.data.take (min r.dataBeats.toNat 16)

/-- The response's status is read as OK; every other code is read as MEMERR (R176). -/
def Response.isOk (r : Response) : Bool := r.status == 0#3

/-- The read data of the answer for a request of this kind and these beats (R91, R176). -/
def Response.answerData (r : Response) (kind : Kind) (beats : Nat) : List Beat :=
  match kind with
  | .write => []
  | .read => if r.isOk then fitBeats beats r.carried else []

namespace Machine

/-! ### Match tests (01) -/

/-- The source test (R2). -/
def MatchRule.sourceTest (m : MatchRule) (S : Source) : Bool :=
  S &&& m.sourceMask == m.sourceValue &&& m.sourceMask

/-- The kind test (R3). -/
def KindFilter.test : KindFilter → Kind → Bool
  | .any, _ => true
  | .read, .read => true
  | .read, .write => false
  | .write, .write => true
  | .write, .read => false

/-- The page test (R3). -/
def MatchRule.pageTest (m : MatchRule) (p : Page) : Bool :=
  decide (m.pageBase ≤ p) && decide (p ≤ m.pageLimit)

/-- The entry is valid and its three tests pass (R2, R3). -/
def MatchEntry.hits (e : MatchEntry) (r : Request) : Bool :=
  e.valid && e.rule.sourceTest r.source && e.rule.kind.test r.kind && e.rule.pageTest r.page

/-- The stream of a well-formed request: that of the first entry that matches, or 0 (R4). -/
def State.classify (s : State) (r : Request) : StreamId :=
  match s.matchList.toList.find? (fun e => e.hits r) with
  | some e => e.rule.stream
  | none => 0

/-! ### The numbers of the register window (12.3) -/

/-- A number of a field that holds 0 to hi. -/
def numUpTo (hi v : Nat) : Option Nat := if v ≤ hi then some v else none

/-- A number of a field that holds 1 to hi. -/
def numFromOne (hi v : Nat) : Option Nat := if 1 ≤ v ∧ v ≤ hi then some v else none

/-- A number of a field of k named values, 0 to k - 1. -/
def finBelow (k : Nat) [NeZero k] (v : Nat) : Option (Fin k) := if v < k then some (Fin.ofNat k v) else none

/-- A set or clear field. -/
def flagOf : Nat → Option Bool
  | 0 => some false
  | 1 => some true
  | _ => none

/-- A policy code. -/
def policyOf : Nat → Option Policy
  | 0 => some .hold
  | 1 => some .refuse
  | 2 => some .pass
  | _ => none

/-- A credit mode code. -/
def creditModeOf : Nat → Option CreditMode
  | 0 => some .reset
  | 1 => some .accumulate
  | _ => none

/-- An age action code. -/
def ageActionOf : Nat → Option AgeAction
  | 0 => some .force
  | 1 => some .drop
  | _ => none

/-- A kind filter code. -/
def kindFilterOf : Nat → Option KindFilter
  | 0 => some .read
  | 1 => some .write
  | 2 => some .any
  | _ => none

/-- A route code. -/
def routeOf : Nat → Option Route
  | 0 => some .interrupt
  | 1 => some .handshake
  | _ => none

/-- A clear style code. -/
def clearStyleOf : Nat → Option ClearStyle
  | 0 => some .oneClears
  | 1 => some .direct
  | _ => none

/-- A sync mode code. -/
def syncModeOf : Nat → Option SyncMode
  | 0 => some .free
  | 1 => some .sync0
  | 2 => some .sync1
  | _ => none

/-- A clock source code for timer t; CASCADE is none for timer 0 (R134). -/
def clockSourceOf (t : TimerId) (v : Nat) : Option ClockSource :=
  if v < 16 then some (.tap (Fin.ofNat 16 v))
  else if v = 16 then some .cycle0
  else if v = 17 then some .cycle1
  else if v = 18 ∧ t ≠ 0 then some .cascade
  else none

/-- A window select: a stream, or NONE, within the outer option (R136). -/
def winSelectOf (v : Nat) : Option (Option StreamId) :=
  if v < 16 then some (some (Fin.ofNat 16 v)) else if v = 16 then some none else none

/-- A staging field written with a number (R7). -/
def MatchRule.write (m : MatchRule) (f : StagingField) (v : Nat) : Option MatchRule :=
  match f with
  | .sourceValue => (numUpTo 63 v).map (fun x => { m with sourceValue := BitVec.ofNat 6 x })
  | .sourceMask => (numUpTo 63 v).map (fun x => { m with sourceMask := BitVec.ofNat 6 x })
  | .kindFilter => (kindFilterOf v).map (fun x => { m with kind := x })
  | .pageBase => (numUpTo (2 ^ 28 - 1) v).map (fun x => { m with pageBase := BitVec.ofNat 28 x })
  | .pageLimit => (numUpTo (2 ^ 28 - 1) v).map (fun x => { m with pageLimit := BitVec.ofNat 28 x })
  | .stream => (finBelow 16 v).map (fun x => { m with stream := x })

/-- A parameter written with a number (R14, R15). -/
def Params.write (q : Params) (p : Param) (v : Nat) : Option Params :=
  match p with
  | .policy => (policyOf v).map (fun x => { q with policy := x })
  | .timer => (finBelow 4 v).map (fun x => { q with timer := x })
  | .windowStart => (numUpTo 65535 v).map (fun x => { q with windowStart := x })
  | .windowEnd => (numUpTo 65535 v).map (fun x => { q with windowEnd := x })
  | .reload => (numUpTo Config.maxCredit v).map (fun x => { q with reload := x })
  | .creditMode => (creditModeOf v).map (fun x => { q with creditMode := x })
  | .cap => (numUpTo Config.maxCredit v).map (fun x => { q with cap := x })
  | .holdLimit => (numUpTo 96 v).map (fun x => { q with holdLimit := x })
  | .issueLimit => (numUpTo 32 v).map (fun x => { q with issueLimit := x })
  | .ageLimit => (numUpTo 65535 v).map (fun x => { q with ageLimit := x })
  | .ageAction => (ageActionOf v).map (fun x => { q with ageAction := x })
  | .priority => (finBelow 8 v).map (fun x => { q with priority := x })

/-- A notice configuration field written with a number (R140). -/
def Notices.write (nt : Notices) (f : NoticeSetting) (v : Nat) : Option Notices :=
  match f with
  | .enable x =>
    (flagOf v).map (fun b => { nt with sources := updAt nt.sources x (fun q => { q with enable := b }) })
  | .level x =>
    (finBelow 8 v).map (fun l => { nt with sources := updAt nt.sources x (fun q => { q with level := l }) })
  | .route x =>
    (routeOf v).map (fun r => { nt with sources := updAt nt.sources x (fun q => { q with route := r }) })
  | .notifyAfter x =>
    (flagOf v).map (fun b => { nt with sources := updAt nt.sources x (fun q => { q with notifyAfter := b }) })
  | .threshold => (finBelow 8 v).map (fun l => { nt with threshold := l })
  | .clearStyle => (clearStyleOf v).map (fun c => { nt with clearStyle := c })

/-! ### The numbers that the window reads (12.3) -/

/-- The code of a set or clear field. -/
def flagCode (b : Bool) : Nat := if b then 1 else 0

/-- The code of a policy. -/
def Policy.code : Policy → Nat
  | .hold => 0
  | .refuse => 1
  | .pass => 2

/-- The code of a credit mode. -/
def CreditMode.code : CreditMode → Nat
  | .reset => 0
  | .accumulate => 1

/-- The code of an age action. -/
def AgeAction.code : AgeAction → Nat
  | .force => 0
  | .drop => 1

/-- The code of a kind filter. -/
def KindFilter.code : KindFilter → Nat
  | .read => 0
  | .write => 1
  | .any => 2

/-- The code of a route. -/
def Route.code : Route → Nat
  | .interrupt => 0
  | .handshake => 1

/-- The code of a clear style. -/
def ClearStyle.code : ClearStyle → Nat
  | .oneClears => 0
  | .direct => 1

/-- The code of a device mode. -/
def DeviceMode.code : DeviceMode → Nat
  | .bypass => 0
  | .regulate => 1
  | .draining => 2

/-- The code of a timer state. -/
def TimerState.code : TimerState → Nat
  | .stopped => 0
  | .armed => 1
  | .running => 2

/-- The code of a sync mode. -/
def SyncMode.code : SyncMode → Nat
  | .free => 0
  | .sync0 => 1
  | .sync1 => 2

/-- The code of a clock source. -/
def ClockSource.code : ClockSource → Nat
  | .tap k => k.val
  | .cycle0 => 16
  | .cycle1 => 17
  | .cascade => 18

/-- The code of a window select. -/
def winSelectCode : Option StreamId → Nat
  | some n => n.val
  | none => 16

/-- The code of the handshake port's state. -/
def PortState.code : PortState → Nat
  | .idle => 0
  | .presenting => 1
  | .recovering => 2

/-- The code of a command result. -/
def CmdResult.code : CmdResult → Nat
  | .accepted => 0
  | .refusedBusy => 1
  | .refusedArg => 2

/-- The number that a parameter reads as. -/
def Params.read (q : Params) : Param → Nat
  | .policy => q.policy.code
  | .timer => q.timer.val
  | .windowStart => q.windowStart
  | .windowEnd => q.windowEnd
  | .reload => q.reload
  | .creditMode => q.creditMode.code
  | .cap => q.cap
  | .holdLimit => q.holdLimit
  | .issueLimit => q.issueLimit
  | .ageLimit => q.ageLimit
  | .ageAction => q.ageAction.code
  | .priority => q.priority.val

/-- The number that a staging field reads as. -/
def MatchRule.read (m : MatchRule) : StagingField → Nat
  | .sourceValue => m.sourceValue.toNat
  | .sourceMask => m.sourceMask.toNat
  | .kindFilter => m.kind.code
  | .pageBase => m.pageBase.toNat
  | .pageLimit => m.pageLimit.toNat
  | .stream => m.stream.val

end Machine

end Sys2Proof
end

