-- ==== Sys2Proof/Machine/Ops.lean ====
section
/-! DEFINITION. The named operations over the state: its field updates, the notice unit, the stream records, the
order table, the store, the timers, admission, the grant, the fill of the answer stage, the warm and cold resets, and
the frame of one event with what its end brings about and judges. -/

namespace Sys2Proof.Machine

/-! ### Field updates -/

/-- s with its pending replaced. -/
def State.setPending (s : State) (v : List Instr) : State := { s with pending := v }

/-- s with its inReset replaced. -/
def State.setInReset (s : State) (v : Bool) : State := { s with inReset := v }

/-- s with its matchList replaced. -/
def State.setMatchList (s : State) (v : Vector MatchEntry 32) : State := { s with matchList := v }

/-- s with its staging replaced. -/
def State.setStaging (s : State) (v : MatchRule) : State := { s with staging := v }

/-- s with its streams replaced. -/
def State.setStreams (s : State) (v : Vector Stream 16) : State := { s with streams := v }

/-- s with its up replaced. -/
def State.setUp (s : State) (v : UpPort) : State := { s with up := v }

/-- s with its store replaced. -/
def State.setStore (s : State) (v : List StoreRec) : State := { s with store := v }

/-- s with its wdb replaced. -/
def State.setWdb (s : State) (v : List Alloc) : State := { s with wdb := v }

/-- s with its order replaced. -/
def State.setOrder (s : State) (v : List OrderEntry) : State := { s with order := v }

/-- s with its answer replaced. -/
def State.setAnswer (s : State) (v : AnswerBlock) : State := { s with answer := v }

/-- s with its downResp replaced. -/
def State.setDownResp (s : State) (v : Option Response) : State := { s with downResp := v }

/-- s with its issue replaced. -/
def State.setIssue (s : State) (v : IssueBlock) : State := { s with issue := v }

/-- s with its ageTap replaced. -/
def State.setAgeTap (s : State) (v : Tap) : State := { s with ageTap := v }

/-- s with its timebase replaced. -/
def State.setTimebase (s : State) (v : BitVec 15) : State := { s with timebase := v }

/-- s with its ticks made for timers replaced. -/
def State.setTimerTicks (s : State) (v : Vector Bool 4) : State := { s with timerTicks := v }

/-- s with its made age tick replaced. -/
def State.setAgeDue (s : State) (v : Bool) : State := { s with ageDue := v }

/-- s with its timers replaced. -/
def State.setTimers (s : State) (v : Vector Timer 4) : State := { s with timers := v }

/-- s with its deliveries replaced. -/
def State.setDeliveries (s : State) (v : List Delivery) : State := { s with deliveries := v }

/-- s with its cascades replaced. -/
def State.setCascades (s : State) (v : Vector Nat 4) : State := { s with cascades := v }

/-- s with its winSelect replaced. -/
def State.setWinSelect (s : State) (v : Vector (Option StreamId) 4) : State := { s with winSelect := v }

/-- s with its nt replaced. -/
def State.setNt (s : State) (v : Notices) : State := { s with nt := v }

/-- s with its dev replaced. -/
def State.setDev (s : State) (v : DeviceControl) : State := { s with dev := v }

/-- s with its mgmt replaced. -/
def State.setMgmt (s : State) (v : Mgmt) : State := { s with mgmt := v }

/-- s with its freeCount replaced. -/
def State.setFreeCount (s : State) (v : Nat) : State := { s with freeCount := v }

/-- s with stream n's record rewritten. -/
def State.onStream (s : State) (n : StreamId) (f : Stream → Stream) : State := s.setStreams (updAt s.streams n f)

/-- s with timer t's record rewritten. -/
def State.onTimer (s : State) (t : TimerId) (f : Timer → Timer) : State := s.setTimers (updAt s.timers t f)

/-! ### Notice unit and event handshake (09) -/

/-- Causes join the cause set of source x (R141). -/
def Notices.join (nt : Notices) (x : NoticeId) (cs : CauseSet) : Notices :=
  { nt with sources := updAt nt.sources x (fun q => { q with causes := q.causes ||| cs }) }

/-- The handshake queue holds an entry for source x. -/
def Notices.queued (nt : Notices) (x : NoticeId) : Bool := nt.queue.any (fun e => e.source == x)

/-- A cause joins the recorded set of the entry for source x, which keeps its place (R149). -/
def Notices.merge (nt : Notices) (o : Occurrence) : Notices :=
  { nt with
    queue := nt.queue.map (fun e => if e.source == o.source then { e with causes := e.causes ||| o.cause.bit } else e) }

/-- A new entry is appended at the tail of the handshake queue (R149). -/
def Notices.append (nt : Notices) (o : Occurrence) : Notices :=
  { nt with queue := nt.queue ++ [{ source := o.source, causes := o.cause.bit }] }

/-- OVERFLOW at source 21 while the queue is full: by its route to the cause set, or merged into source 21's entry,
or, with no such entry, to the cause set all the same (R149). -/
def Notices.overflowed (nt : Notices) : Notices :=
  let o : Occurrence := { source := 21, cause := .hsOverflow }
  match (cell nt.sources 21).route with
  | .interrupt => nt.join 21 o.cause.bit
  | .handshake => if nt.queued 21 then nt.merge o else nt.join 21 o.cause.bit

/-- A cause occurrence passed to the event handshake: merged, appended, or the overflow fallback (R149). -/
def Notices.toHandshake (nt : Notices) (o : Occurrence) : Notices :=
  if nt.queued o.source then nt.merge o
  else if nt.queue.length < Config.handshakeCapacity then nt.append o
  else (nt.join o.source o.cause.bit).overflowed

/-- A cause occurrence at the notice unit (R141): EXPIRED joins the cause set whatever the route. -/
def Notices.occur (nt : Notices) (o : Occurrence) : Notices :=
  match (cell nt.sources o.source).route with
  | .interrupt => nt.join o.source o.cause.bit
  | .handshake =>
    if o.cause = .expired then (nt.join o.source o.cause.bit).toHandshake o else nt.toHandshake o

/-- The timeout of a presentation (R154): the head leaves, its causes join its source's set, the port becomes IDLE
with the presentation hold set, and source 21 receives TIMEOUT. -/
def Notices.timeOut (nt : Notices) : Notices :=
  let nt1 :=
    match nt.queue with
    | [] => nt
    | e :: _ => nt.join e.source e.causes
  { nt1 with queue := nt.queue.tail, port := .idle, hold := true, timer := 0 }.occur { source := 21, cause := .timeout }

/-- A presentation is due: the port is IDLE, the hold is clear and the queue is not empty (R151). -/
def Notices.presentable (nt : Notices) : Bool := nt.port == .idle && !nt.hold && !nt.queue.isEmpty

/-- A presentation, where one is due (R151): EVREQ rises with the head's source and the handshake timer starts from
0. -/
def Notices.present (nt : Notices) : Notices :=
  if nt.presentable then { nt with port := .presenting, timer := 0 } else nt

/-- The next age tick is the timeout of the presentation (R154). -/
def Notices.atTimeout (nt : Notices) : Bool := nt.port == .presenting && decide (nt.limit ≤ nt.timer + 1)

/-- An age tick at the event handshake: the timer counts while the port is PRESENTING, the timeout when it reaches
the limit (R154); otherwise the tick clears the presentation hold (R151). -/
def Notices.ageTick (nt : Notices) : Notices :=
  match nt.port with
  | .presenting => if nt.limit ≤ nt.timer + 1 then nt.timeOut else { nt with timer := nt.timer + 1, hold := false }
  | .idle => { nt with hold := false }
  | .recovering => { nt with hold := false }

/-- The acknowledge of the head entry (R152). -/
def Notices.acknowledge (nt : Notices) : Notices :=
  let nt1 :=
    match nt.queue with
    | [] => nt
    | e :: _ => if (cell nt.sources e.source).notifyAfter then nt.join e.source e.causes else nt
  { nt1 with queue := nt.queue.tail, port := .recovering, timer := 0 }

/-- The notice state at the start of a warm reset: cause sets and queue empty, port IDLE, hold clear, configuration
kept (R157). -/
def Notices.warmStart (nt : Notices) : Notices :=
  { nt with
    sources := mapAll nt.sources (fun _ q => { q with causes := 0 })
    queue := []
    port := .idle
    hold := false
    timer := 0 }

/-- A cause register write under ONE_CLEARS: the causes written with 1 leave the set (R145). -/
def Notices.clearCauses (nt : Notices) (x : NoticeId) (v : Word) : Notices :=
  { nt with sources := updAt nt.sources x (fun q => { q with causes := q.causes &&& ~~~(v.extractLsb' 0 5) }) }

/-- A cause register write under DIRECT: the set becomes the causes written with 1 (R146). -/
def Notices.placeCauses (nt : Notices) (x : NoticeId) (v : Word) : Notices :=
  { nt with sources := updAt nt.sources x (fun q => { q with causes := v.extractLsb' 0 5 &&& causeMask x }) }

/-- A cause register write, as the clear style has it (R145, R146). -/
def Notices.writeCauses (nt : Notices) (x : NoticeId) (v : Word) : Notices :=
  match nt.clearStyle with
  | .oneClears => nt.clearCauses x v
  | .direct => nt.placeCauses x v

/-- A falling edge of EVACK at the port (R153): in RECOVERING the port becomes IDLE and, with entries waiting, presents
at once. -/
def Notices.evackFall (nt : Notices) : Notices :=
  match nt.port with
  | .recovering => { nt with port := .idle }.present
  | .idle => nt
  | .presenting => nt

/-- One thing that an event hands to the notice unit, and the presentation that is due after it: an append to an empty
queue in IDLE presents, and so does the age tick that clears the hold (R151). -/
def Notices.run (nt : Notices) (j : NoticeJob) : Notices :=
  match j with
  | .occur o => (nt.occur o).present
  | .ageTick => nt.ageTick.present

/-- The notice unit takes what an event hands to it, one after the other. The event leaves no presentation due, for one
takes place at every event after which the port is IDLE, the hold clear and the queue not empty (R151). -/
def Notices.runAll (nt : Notices) (jobs : List NoticeJob) : Notices := jobs.foldl Notices.run nt.present

/-- A list in a free order: each element stands at a place that the hardware chooses (R139, log 5). -/
def freeOrder {α : Type} : Nat → List α → List α
  | _, [] => []
  | _, [a] => [a]
  | c, a :: b :: l => (freeOrder (c + 1) (b :: l)).insertIdx (Config.freeChoice c % (l.length + 2)) a

/-- The order of an event's occurrences can show: some of them goes to the handshake queue. -/
def Notices.orderShows (nt : Notices) (jobs : List NoticeJob) : Bool :=
  jobs.any (fun j =>
    match j with
    | .occur o => (cell nt.sources o.source).route == .handshake
    | .ageTick => false)

/-! ### Stream records (02) -/

/-- The apply of the pending set, if pending-valid is set (R17). -/
def Stream.apply (st : Stream) : Stream :=
  if st.pendingValid then { st with live := st.pend, pendingValid := false } else st

/-- The effective cap: the greater of cap and reload (R25). -/
def Params.effectiveCap (p : Params) : Nat := max p.cap p.reload

/-- The replenishment of credit (R25). -/
def Stream.replenish (st : Stream) : Stream :=
  { st with
    credit :=
      match st.live.creditMode with
      | .reset => st.live.reload
      | .accumulate => min (st.credit + st.live.reload) st.live.effectiveCap }

/-- A frame start of the bound timer taken at the stream: apply, replenish, clear the marker (R17, R128). -/
def Stream.frameStart (st : Stream) : Stream := { st.apply.replenish with noted := false }

/-- The pending set becomes a copy of the live set (R19). -/
def Stream.discard (st : Stream) : Stream := { st with pend := st.live, pendingValid := false }

/-- The warm values of a stream record (R31). -/
def Stream.warm (st : Stream) : Stream :=
  { st with credit := st.live.reload, issueCount := 0, noted := false, counters := Counters.zero }

/-- The accounting of a grant of b beats, charged against credit when the stream is regulated (R79, R80). -/
def Stream.charge (st : Stream) (regulated : Bool) (b : Nat) : Stream :=
  let c := st.counters
  let c1 := { c with issuedRequests := c.issuedRequests + 1, issuedBeats := c.issuedBeats + BitVec.ofNat 32 b }
  if regulated then
    { st with
      issueCount := st.issueCount + 1
      credit := st.credit - b
      counters := { c1 with excessBeats := c1.excessBeats + BitVec.ofNat 32 (b - st.credit) } }
  else { st with issueCount := st.issueCount + 1, counters := c1 }

/-- A memory response for an ISSUED entry of the stream is taken into the answer stage (R91). -/
def Stream.answered (st : Stream) (ok : Bool) : Stream :=
  { st with
    issueCount := st.issueCount - 1
    counters :=
      if ok then st.counters else { st.counters with memoryErrors := st.counters.memoryErrors + 1 } }

/-- A request of the stream is refused (R41, R42). -/
def Stream.refused (st : Stream) : Stream :=
  { st with counters := { st.counters with refusedRequests := st.counters.refusedRequests + 1 } }

/-- A kept request of the stream is no eligible head at its take (R44). -/
def Stream.waited (st : Stream) : Stream :=
  { st with counters := { st.counters with waitedRequests := st.counters.waitedRequests + 1 } }

/-- k records of the stream expire (R109). -/
def Stream.expired (st : Stream) (k : Nat) : Stream :=
  { st with counters := { st.counters with expiredRequests := st.counters.expiredRequests + BitVec.ofNat 32 k } }

/-! ### Order table (06) -/

/-- The entries with that of the request drawn as d in another state (R87). -/
def setEntry (d : Nat) (es : EntryState) (order : List OrderEntry) : List OrderEntry :=
  order.map (fun e => if e.draw = d then { e with state := es } else e)

/-- The entries without that of the request drawn as d (R87). -/
def removeEntry (d : Nat) (order : List OrderEntry) : List OrderEntry := order.filter (fun e => e.draw != d)

/-- The entries with every QUEUED one LOCAL ABORTED (R162). -/
def abortQueued (order : List OrderEntry) : List OrderEntry :=
  order.map (fun e => if e.state = .queued then { e with state := .made .aborted false } else e)

/-- The entries with every ISSUED one a ghost, LOCAL ABORTED with the ghost mark set (R166). -/
def ghostIssued (order : List OrderEntry) : List OrderEntry :=
  order.map (fun e => if e.state = .issued then { e with state := .made .aborted true } else e)

/-- How many entries of stream n are ISSUED (R27). -/
def issuedOf (order : List OrderEntry) (n : StreamId) : Nat :=
  order.countP (fun e => e.stream == some n && e.state == .issued)

/-- The status of an answer as a local one. -/
def LocalStatus.answer : LocalStatus → AnswerStatus
  | .refused => .refused
  | .expired => .expired
  | .aborted => .aborted

/-! ### One event -/

/-- An event under way: the state so far, and what the notice unit has still to take at this event. -/
structure Ev where
  st : State
  jobs : List NoticeJob

/-- The state rewritten. -/
def Ev.map (e : Ev) (f : State → State) : Ev := { e with st := f e.st }

/-- A cause raised at source x. -/
def Ev.raise (e : Ev) (x : NoticeId) (c : Cause) : Ev :=
  { e with jobs := e.jobs ++ [.occur { source := x, cause := c }] }

/-- The notice source of stream n (R139). -/
def streamSource (n : StreamId) : NoticeId := Fin.castLE (by decide) n

/-- The notice source of timer t (R139). -/
def timerSource (t : TimerId) : NoticeId := ⟨16 + t.val, by omega⟩

/-- A response standing on DOWN is judged, at its offer or again: it is discarded when its source's oldest response-due entry is absent,
ABANDONED or a ghost (R90, R93, R94, R95). -/
def Ev.discardResponse (e : Ev) : Ev :=
  match e.st.downResp with
  | none => e
  | some r =>
    match e.st.oldestDue r.source with
    | none => (e.map (fun s => s.setDownResp none)).raise 22 .stray
    | some m =>
      match m.state with
      | .abandoned => e.map (fun s => (s.setDownResp none).setOrder (removeEntry m.draw s.order))
      | .made status _ =>
        e.map (fun s => (s.setDownResp none).setOrder (setEntry m.draw (.made status false) s.order))
      | .issued => e
      | .queued => e

/-- The streams whose shortfall of credit is found at this event: short with the marker clear (R71). -/
def State.newlyShort (s : State) (n : StreamId) : Bool := s.headShort n && !(s.stream n).noted

/-- The credit shortfall test of every stream: CREDIT is raised and the marker set where it is found (R71, log 10). -/
def Ev.noteShortfalls (e : Ev) : Ev :=
  { st := e.st.setStreams (mapAll e.st.streams (fun n st => if e.st.newlyShort n then { st with noted := true } else st))
    jobs := e.jobs ++ ((List.finRange 16).filter e.st.newlyShort).map
      (fun n => .occur { source := streamSource n, cause := .credit }) }

/-- What the admission of a well-formed or malformed request would come to (R33, R38 to R43). -/
inductive Admission where
  | malformed
  | overflow (n : StreamId)
  | refused (n : StreamId)
  | kept (n : StreamId)
  deriving DecidableEq, Repr

/-- The REFUSE-policy test for a request of b beats of stream n (R42). -/
def State.refuses (s : State) (n : StreamId) (b : Nat) : Bool :=
  s.regulated n && (s.stream n).live.policy == .refuse &&
    (!(s.queue n).isEmpty || !s.windowOpen n || decide ((s.stream n).credit < b))

/-- The tests of admission in their order: form, classification, hold limit, REFUSE policy (R33). -/
def State.admission (s : State) (r : Request) : Admission :=
  if r.wellFormed then
    let n := s.classify r
    if (s.stream n).live.holdLimit ≤ (s.queue n).length then .overflow n
    else if s.refuses n r.beats.toNat then .refused n
    else .kept n
  else .malformed

/-- Which resources lack for the offered request (R32, R34). -/
def State.lacks (s : State) (r : Request) : Lacking :=
  let kept :=
    match s.admission r with
    | .kept _ => true
    | .malformed => false
    | .overflow _ => false
    | .refused _ => false
  { order := decide (Config.orderCapacity ≤ s.order.length)
    store := kept && decide (Config.storeCapacity ≤ s.store.length)
    data := kept && r.kind == .write && decide (Config.bufferBeats < s.bufferUsed + r.beats.toNat) }

/-- The resources that lack on UP: none with no offer and none in DRAINING (R34, R36). -/
def State.stall (s : State) : Lacking :=
  match s.up.offer with
  | none => Lacking.none
  | some r => if s.dev.mode = .draining then Lacking.none else s.lacks r

/-- The offered request, if R32 lets it be taken. -/
def State.takeable (s : State) : Option Request :=
  match s.up.offer with
  | none => none
  | some r => if s.dev.mode ≠ .draining ∧ s.lacks r = Lacking.none then some r else none

/-- Each resource that begins to lack raises its cause at the STALL source (R34, log 10). -/
def Ev.noteStall (e : Ev) : Ev :=
  let was := e.st.up.lacking
  let now := e.st.stall
  let e0 := e.map (fun s => s.setUp { s.up with lacking := now })
  let e1 := if now.order && !was.order then e0.raise 20 .orderLack else e0
  let e2 := if now.store && !was.store then e1.raise 20 .storeLack else e1
  if now.data && !was.data then e2.raise 20 .dataLack else e2

/-- The notice unit takes what the event has raised, in a free order where the order can show (R139, R141), and presents
where that is due (R151). -/
def Ev.notify (e : Ev) : State :=
  if e.st.nt.orderShows e.jobs then
    (e.st.setNt (e.st.nt.runAll (freeOrder e.st.freeCount e.jobs))).setFreeCount (e.st.freeCount + e.jobs.length)
  else e.st.setNt (e.st.nt.runAll e.jobs)

/-! ### Admission at the take (03) -/

/-- The order entry that a take creates (R39). -/
def State.newEntry (s : State) (r : Request) (n : Option StreamId) (es : EntryState) : OrderEntry :=
  { source := r.source, stream := n, kind := r.kind, beats := r.beats.toNat, state := es, draw := s.up.draws }

/-- What every take does: the offer ends, a sequence number is drawn, an order entry is appended (R37, R39). -/
def State.takeOffer (s : State) (r : Request) (n : Option StreamId) (es : EntryState) : State :=
  (s.setUp { offer := none, lacking := Lacking.none, seq := s.up.seq + 1, draws := s.up.draws + 1 }).setOrder
    (s.order ++ [s.newEntry r n es])

/-- The store record that a kept request becomes (R43). -/
def State.newRecord (s : State) (r : Request) (n : StreamId) : StoreRec :=
  let limit := (s.stream n).live.ageLimit
  { source := r.source
    kind := r.kind
    address := r.address
    beats := r.beats.toNat
    stream := n
    seq := s.up.seq
    draw := s.up.draws
    writeRef := match r.kind with
      | .write => some s.up.draws
      | .read => none
    age := if limit = 0 then none else some limit
    urgent := false }

/-- A kept request joins its queue, a WRITE's data the buffer (R43, R50). -/
def State.keep (s : State) (r : Request) (n : StreamId) : State :=
  let s1 := (s.takeOffer r (some n) .queued).setStore (s.store ++ [s.newRecord r n])
  match r.kind with
  | .read => s1
  | .write => s1.setWdb (s.wdb ++ [{ key := s.up.draws, data := fitBeats r.beats.toNat r.data }])

/-- The take of the offered request: its whole admission as one event (R37 to R44). -/
def Ev.take (e : Ev) (r : Request) : Ev :=
  let s := e.st
  match s.admission r with
  | .malformed => (e.map (fun s => s.takeOffer r none (.made .refused false))).raise 22 .malformed
  | .overflow n =>
    (e.map (fun s => (s.takeOffer r (some n) (.made .refused false)).onStream n Stream.refused)).raise
      (streamSource n) .overflow
  | .refused n =>
    let e1 := (e.map (fun s => (s.takeOffer r (some n) (.made .refused false)).onStream n Stream.refused)).raise
      (streamSource n) .refused
    if (s.stream n).credit < r.beats.toNat ∧ (s.stream n).noted = false then
      (e1.map (fun s => s.onStream n (fun st => { st with noted := true }))).raise (streamSource n) .credit
    else e1
  | .kept n =>
    let s1 := s.keep r n
    if s1.eligible (s.newRecord r n) then e.map (fun _ => s1)
    else e.map (fun _ => s1.onStream n Stream.waited)

/-- The offered request is taken if R32 lets it. -/
def Ev.takeIfAble (e : Ev) : Ev :=
  match e.st.takeable with
  | none => e
  | some r => e.take r

/-! ### Store removals (03, 07, 10) -/

/-- The records that a selection picks leave the store; their entries pass from QUEUED to another state and their
beats are freed (R46, R48, R51). -/
def State.removeRecords (s : State) (sel : StoreRec → Bool) (es : EntryState) : State :=
  let gone := s.store.filter sel
  ((s.setStore (s.store.filter (fun r => !sel r))).setOrder
      (s.order.map (fun e =>
        if e.state = .queued ∧ gone.any (fun r => r.draw == e.draw) then { e with state := es } else e))).setWdb
    (s.wdb.filter (fun a => !gone.any (fun r => r.writeRef == some a.key)))

/-! ### The grant (05) -/

/-- The grant of record r (R78, R79, R80). -/
def State.grantTo (s : State) (r : StoreRec) : State :=
  let n := r.stream
  let s1 := (s.setStore (s.store.filter (fun x => x.draw != r.draw))).setOrder (setEntry r.draw .issued s.order)
  let q : Issued :=
    { source := r.source, kind := r.kind, address := r.address, beats := r.beats, stream := n, writeRef := r.writeRef }
  let ptr := if r.urgent then s.issue.ptr else updAt s.issue.ptr (s.stream n).live.priority (fun _ => n)
  (s1.setIssue { stage := some q, ptr := ptr }).onStream n (fun st => st.charge (s.regulated n) r.beats)

/-- A grant is made: the issue stage is empty and there is a candidate (R74). -/
def State.grantReady (s : State) : Option StoreRec :=
  match s.issue.stage with
  | none => s.grantChoice
  | some _ => none

/-! ### The answer stage (06) -/

/-- The memory answer for entry m (R91). -/
def Ev.memoryAnswer (e : Ev) (r : Response) (m : OrderEntry) : Ev :=
  let a : Answer :=
    { source := r.source, status := if r.isOk then .ok else .memerr, data := r.answerData m.kind m.beats }
  let e1 := e.map (fun s =>
    ((s.setAnswer { s.answer with stage := some a }).setOrder (removeEntry m.draw s.order)).setDownResp none)
  match m.stream with
  | none => e1
  | some n =>
    let e2 := e1.map (fun s => s.onStream n (fun st => st.answered r.isOk))
    if r.isOk then e2 else e2.raise (streamSource n) .memerr

/-- The local answer for the LOCAL answer front f (R98). -/
def State.localAnswer (s : State) (f : OrderEntry) : State :=
  match f.state with
  | .made status ghost =>
    (s.setAnswer { stage := some { source := f.source, status := status.answer, data := [] }, ptr := f.source }).setOrder
      (if ghost then setEntry f.draw .abandoned s.order else removeEntry f.draw s.order)
  | .queued => s
  | .issued => s
  | .abandoned => s

/-- A fill of the answer stage: a memory answer first, otherwise a local one by the round robin (R97). -/
def Ev.fill (e : Ev) : Ev :=
  match e.st.answer.stage with
  | some _ => e
  | none =>
    match e.st.answerable with
    | some (r, m) => e.memoryAnswer r m
    | none =>
      match e.st.localChoice with
      | some f => e.map (fun s => s.localAnswer f)
      | none => e

/-- A fill would give the answer stage an answer (R97). -/
def State.fillReady (s : State) : Bool :=
  s.answer.stage.isNone && (s.answerable.isSome || s.localChoice.isSome)

/-! ### Phase timers (08) -/

/-- The timer's fields at a frame start: count 0, a pending frame length applied (R127). -/
def Timer.frameStart (t : Timer) : Timer :=
  { t with
    count := 0
    frameLength := if t.pendingValid then t.pendingLength else t.frameLength
    pendingValid := false }

/-- START at a timer (R131). -/
def Timer.start (t : Timer) : Timer :=
  match t.state with
  | .stopped => { t with state := if t.sync = .free then .running else .armed }
  | .armed => t
  | .running => t

/-- STOP at a timer (R131). -/
def Timer.stop (t : Timer) : Timer := { t with state := .stopped }

/-- The timer has the pin as its sync pin (R123). -/
def Timer.syncsOn (t : Timer) (pin : CyclePin) : Bool :=
  match t.sync, pin with
  | .sync0, .cycle0 => true
  | .sync1, .cycle1 => true
  | .sync0, .cycle1 => false
  | .sync1, .cycle0 => false
  | .free, _ => false

/-- The timer has the pin as its clock source (R122). -/
def Timer.clockedBy (t : Timer) (pin : CyclePin) : Bool :=
  match pin with
  | .cycle0 => t.clock == .cycle0
  | .cycle1 => t.clock == .cycle1

/-- The timer that takes the cascade tick of timer t, if it is there and its clock source is CASCADE (R129). -/
def State.cascadeUser (s : State) (t : TimerId) : Option TimerId :=
  if h : t.val + 1 < 4 then
    let u : TimerId := ⟨t.val + 1, h⟩
    if (s.timer u).clock = .cascade then some u else none
  else none

/-- A cascade tick made for the user of timer t, when the cause is a tick or a sync edge (R127, R129). DESIGN CHOICE
(log 26): the clock source of timer t + 1 is asked here, at the frame start, and again when the tick is taken
(Ev.cascadeTick); no rule names the moment. -/
def State.makeCascade (s : State) (t : TimerId) (cause : FrameCause) : State :=
  match cause, s.cascadeUser t with
  | .restart, _ => s
  | .tick, none => s
  | .syncEdge, none => s
  | .tick, some u => s.setCascades (updAt s.cascades u (· + 1))
  | .syncEdge, some u => s.setCascades (updAt s.cascades u (· + 1))

/-- A frame start of timer t (R127): the timer's fields, WRAP, SYNC_MISSED for a tick in a sync mode (R124), one
delivery to every stream and the cascade tick. -/
def Ev.frameStart (e : Ev) (t : TimerId) (cause : FrameCause) : Ev :=
  let missed := cause == .tick && (e.st.timer t).sync != .free
  let e1 := (e.map (fun s =>
    (((s.onTimer t Timer.frameStart).setDeliveries (s.deliveries ++ (List.finRange 16).map (fun n => (t, n)))).makeCascade
      t cause))).raise (timerSource t) .wrap
  if missed then e1.raise (timerSource t) .syncMissed else e1

/-- A tick reaches timer t (R124). -/
def Ev.tick (e : Ev) (t : TimerId) : Ev :=
  let r := e.st.timer t
  match r.state with
  | .running =>
    if r.count + 1 = r.frameLength then e.frameStart t .tick
    else e.map (fun s => s.onTimer t (fun x => { x with count := x.count + 1 }))
  | .armed => e
  | .stopped => e

/-- A sync edge reaches timer t (R125). -/
def Ev.syncEdge (e : Ev) (t : TimerId) : Ev :=
  match (e.st.timer t).state with
  | .stopped => e
  | .armed => (e.map (fun s => s.onTimer t (fun x => { x with state := .running }))).frameStart t .syncEdge
  | .running => e.frameStart t .syncEdge

/-- A rising edge of a cycle input at timer t: a sync edge on its sync pin, and only that; otherwise a tick on its
clock source (R122). -/
def Ev.pinEdge (e : Ev) (pin : CyclePin) (t : TimerId) : Ev :=
  if (e.st.timer t).syncsOn pin then e.syncEdge t
  else if (e.st.timer t).clockedBy pin then e.tick t
  else e

/-- Tap k ticks in the REFCLK period that brings the divider to n: once for each 2^k periods, all taps in phase at the
release (R119). -/
def tapTicks (n : BitVec 15) (k : Tap) : Bool := decide (n.toNat % 2 ^ k.val = 0)

/-- The timer's clock source is a tap that ticks in the period that brings the divider to n (R119, R122). -/
def Timer.tickedAt (t : Timer) (n : BitVec 15) : Bool :=
  match t.clock with
  | .tap k => tapTicks n k
  | .cycle0 => false
  | .cycle1 => false
  | .cascade => false

/-- The next REFCLK period begins: the divider moves on, and a tick is made for every timer clocked by a tap that ticks in
the period and, where the age tap ticks in it, for the users of age ticks. Each is an event at its user (R119, log 6). -/
def State.beginPeriod (s : State) : State :=
  let n := s.timebase + 1
  ((s.setTimebase n).setTimerTicks (mapAll s.timerTicks (fun t _ => (s.timer t).tickedAt n))).setAgeDue
    (tapTicks n s.ageTap)

/-- A tick of tap k of the present period is made for timer t and not yet taken there. A timer whose clock source is no
longer that tap does not take it (DESIGN CHOICE, log 6). -/
def State.awaits (s : State) (k : Tap) (t : TimerId) : Bool :=
  cell s.timerTicks t && (s.timer t).clock == .tap k && tapTicks s.timebase k

/-- Some timer awaits a tick of tap k. -/
def State.awaitsTap (s : State) (k : Tap) : Bool := (List.finRange 4).any (s.awaits k)

/-- The age tick of the present period is made and not yet taken. An age tap written meanwhile that does not tick in the
period leaves no age tick in it (R106, R117). -/
def State.awaitsAge (s : State) : Bool := s.ageDue && tapTicks s.timebase s.ageTap

/-- The tick of tap k at timer t, if it awaits one. -/
def Ev.tapAt (e : Ev) (k : Tap) (t : TimerId) : Ev :=
  if e.st.awaits k t then (e.map (fun s => s.setTimerTicks (updAt s.timerTicks t (fun _ => false)))).tick t else e

/-- The tick of tap k at the timers that await it, one event for all of them (R119). -/
def Ev.takeTap (e : Ev) (k : Tap) : Ev := (List.finRange 4).foldl (fun e t => e.tapAt k t) e

/-- The timers that a mask selects. -/
def selectedTimers (mask : TimerMask) : List TimerId := (List.finRange 4).filter (fun t => mask.getLsbD t.val)

/-- RESTART at the selected timers (R132). -/
def Ev.restart (e : Ev) (mask : TimerMask) : Ev :=
  (selectedTimers mask).foldl (fun e t => e.frameStart t .restart) e

/-- s with every selected timer rewritten. -/
def State.onTimers (s : State) (mask : TimerMask) (f : Timer → Timer) : State :=
  s.setTimers (mapAll s.timers (fun t x => if mask.getLsbD t.val then f x else x))

/-- s with every selected stream rewritten. -/
def State.onStreams (s : State) (mask : StreamMask) (f : Stream → Stream) : State :=
  s.setStreams (mapAll s.streams (fun n x => if mask.getLsbD n.val then f x else x))

/-- A frame start of timer t is taken at stream n (R128): it reaches the stream only while the stream's live set
names the timer. -/
def State.deliver (s : State) (t : TimerId) (n : StreamId) : State :=
  let s1 := s.setDeliveries (s.deliveries.erase (t, n))
  if (s.stream n).live.timer = t then s1.onStream n Stream.frameStart else s1

/-! ### Age supervision (07) -/

/-- The remaining age lowered by 1 where it is present and above 0 (R107). -/
def StoreRec.age1 (r : StoreRec) : StoreRec :=
  { r with
    age :=
      match r.age with
      | some (k + 1) => some k
      | some 0 => some 0
      | none => none }

/-- The record expires at its next age tick (R109). -/
def StoreRec.lastTick (r : StoreRec) : Bool := r.age == some 1

/-- The urgency closure of the records that seed picks, over a list in drawing order, as a mark beside each record:
a record is in the closure when it is a seed, or when a later member stands in its queue or has its source (R110). -/
def urgencyClosure (seed : StoreRec → Bool) : List StoreRec → List (StoreRec × Bool)
  | [] => []
  | r :: later =>
    let c := urgencyClosure seed later
    (r, seed r || c.any (fun p => p.2 && (p.1.stream == r.stream || p.1.source == r.source))) :: c

/-- The records that a selection picks and that expire at this tick, by their streams' live age action (R109). -/
def State.expiring (s : State) (sel : StoreRec → Bool) (a : AgeAction) (r : StoreRec) : Bool :=
  sel r && r.lastTick && (s.stream r.stream).live.ageAction == a

/-- An age tick at the selected records (R107, R109): DROP expiries leave first, then the ages fall and the closure
of the FORCE expiries is marked urgent; each expiry is counted and raises EXPIRED. -/
def Ev.ageRecords (e : Ev) (sel : StoreRec → Bool) : Ev :=
  let s := e.st
  let gone := s.expiring sel .drop
  let forced := s.expiring sel .force
  let expired := s.store.filter (fun r => sel r && r.lastTick)
  let s1 := s.removeRecords gone (.made .expired false)
  let kept := (urgencyClosure forced s1.store).map (fun p =>
    { (if sel p.1 then p.1.age1 else p.1) with urgent := p.1.urgent || p.2 })
  let s2 := (s1.setStore kept).setStreams (mapAll s.streams (fun n st =>
    st.expired (expired.countP (fun r => r.stream == n))))
  { st := s2
    jobs := e.jobs ++ expired.map (fun r => .occur { source := streamSource r.stream, cause := .expired }) }

/-- The record drawn as d is in the store, at its last tick, and its stream's age action is a. -/
def State.expiresAs (s : State) (d : Nat) (a : AgeAction) : Bool :=
  s.store.any (fun r => r.draw == d && r.lastTick && (s.stream r.stream).live.ageAction == a)

/-! ### Device control (10) -/

/-- What the drain timer holds after its next age tick (R165). -/
def DeviceControl.drainNext (d : DeviceControl) : Nat := min 65535 (d.drainTimer + 1)

/-- The next age tick is the drain timeout (R165). -/
def DeviceControl.atTimeout (d : DeviceControl) : Bool :=
  d.mode == .draining && d.drainRunning && decide (1 ≤ d.drainLimit) && decide (d.drainLimit ≤ d.drainNext)

/-- The drain timeout (R166): the timer stops, ISSUED entries become ghosts, their streams' issue counts fall,
CONTROL receives DRAIN_TIMEOUT. -/
def Ev.drainTimeout (e : Ev) : Ev :=
  (e.map (fun s =>
    ((s.setDev { s.dev with drainTimer := s.dev.drainNext, drainRunning := false }).setStreams
      (mapAll s.streams (fun n st => { st with issueCount := st.issueCount - issuedOf s.order n }))).setOrder
      (ghostIssued s.order))).raise 23 .drainTimeout

/-- An age tick at the drain timer (R165). -/
def Ev.drainTick (e : Ev) : Ev :=
  if e.st.dev.atTimeout then e.drainTimeout
  else if e.st.dev.mode = .draining ∧ e.st.dev.drainRunning = true then
    e.map (fun s => s.setDev { s.dev with drainTimer := s.dev.drainNext })
  else e

/-- The beats that the issue stage's request holds are the only ones kept at the start of a warm reset (R51, R162). -/
def State.stageHolds (s : State) (a : Alloc) : Bool :=
  match s.issue.stage with
  | none => false
  | some q => q.writeRef == some a.key

/-- The start of a warm reset (R162, R163). A stall ends there, so that a resource found lacking at the completion
begins to lack at it (R34, R36). -/
def State.warmStart (s : State) : State :=
  ((((((s.setDev { s.dev with mode := .draining, drainRunning := true, drainTimer := 0 }).setStore []).setWdb
    (s.wdb.filter s.stageHolds)).setOrder (abortQueued s.order)).setTimers (mapAll s.timers (fun _ t => t.stop))).setNt
    s.nt.warmStart).setUp { s.up with lacking := Lacking.none }

/-- Everything that the completion of a warm reset waits for holds (R167). -/
def State.drained (s : State) : Bool :=
  s.dev.mode == .draining && s.order.all (fun e => e.state == .abandoned) && s.issue.stage.isNone &&
    s.answer.stage.isNone

/-- The completion of a warm reset: every block takes its warm values (R167). -/
def State.warmComplete (s : State) : State :=
  (((((s.setDev { s.dev with mode := .bypass, drainRunning := false }).setStreams
    (mapAll s.streams (fun _ st => st.warm))).setIssue { stage := none, ptr := Vector.replicate 8 15 }).setAnswer
    { stage := none, ptr := 63 }).setTimers (mapAll s.timers (fun _ t => { t with state := .stopped, count := 0 }))).setMgmt
    { s.mgmt with snapshot := Snapshot.empty }

/-- The onset of cold reset: every block takes its cold values, and cold reset is in force (R170, R171). What the
partners hold on the two channels that the part receives on, and on CSn, is theirs and stands (R179, R180, log 8); the
queue of commands and the count of free choices are the model's own and stay. -/
def State.coldReset (s : State) : State :=
  (((((State.reset.setPending s.pending).setInReset true).setFreeCount s.freeCount).setUp
    { State.reset.up with offer := s.up.offer }).setDownResp s.downResp).setMgmt
    { State.reset.mgmt with selected := s.mgmt.selected }

/-! ### The end of an event (R32, R36, R97, R151, R167) -/

/-- A warm reset completes at the first event of its drain after which nothing is left that it waits for (R167). -/
def Ev.complete (e : Ev) : Ev := if e.st.drained then e.map State.warmComplete else e

/-- What an event brings about at once: the fill of an empty answer stage for which an answer is ready (R97), the
completion of the drain that it ends (R167), then the take of the waiting offer, at the first event after which R32 lets
it be taken, a fill and a completion among these events (R32, R36), and the fill that follows where the take has made a
LOCAL front (R97). -/
def Ev.brings (e : Ev) : Ev := e.fill.complete.takeIfAble.fill

/-- The judgements that the spec makes at every event that changes their inputs, then the notice unit (log 10). -/
def Ev.judge (e : Ev) : State := e.noteShortfalls.noteStall.notify

/-- The end of an event: a response standing on DOWN judged again (R90), the fill, the completion and the take that the
event brings about, the judgements (log 10). -/
def Ev.close (e : Ev) : State := e.discardResponse.brings.judge

/-- The end of an event that may be the start of a warm reset: as at any event, but without the completion, which follows
the start where nothing is left to wait for (R161, R167). -/
def Ev.closeStart (e : Ev) : State := e.discardResponse.fill.takeIfAble.fill.judge

/-- The completion that follows the start of a warm reset at once, where the start left nothing to wait for (R167): it
comes before any event but a second request for a warm reset (R161, log 31). -/
def Ev.follow (e : Ev) : Ev := if e.st.drained then { st := e.close, jobs := [] } else e

/-- What is an event at the part only while cold reset is not in force (R170). -/
def event (s : State) (f : Ev → State) : Host.Outcome State Fault Refusal :=
  if s.inReset then .next s else .next (f { st := s, jobs := [] })

/-- An event at the part other than a request for a warm reset, after a completion that is to follow a start. -/
def happen (s : State) (f : Ev → Ev) : Host.Outcome State Fault Refusal := event s (fun e => (f e.follow).close)

/-- A request for a warm reset (R161). Outside DRAINING it is the start, whose own event leaves DRAINING. In DRAINING it
is ignored, and where the mode is DRAINING by a start that left nothing to wait for, the completion follows it. -/
def askReset (s : State) (f : Ev → Ev) : Host.Outcome State Fault Refusal :=
  event s (fun e => if e.st.dev.mode = .draining then (f e).close else (f e).closeStart)

/-! ### Management port (12) -/

/-- The port records an error (R185). -/
def Ev.record (e : Ev) (err : MgmtError) : Ev := e.map (fun s => s.setMgmt { s.mgmt with lastError := err })

/-- The frame state replaced. -/
def Ev.setFrame (e : Ev) (f : SpiFrame) : Ev := e.map (fun s => s.setMgmt { s.mgmt with frame := f })

/-- A word of a WRITE frame offered at word address a: it acts and the frame's address moves on, by 1 and wrapping,
where a is the frame's current address (R182). Otherwise no such word is taken: in a WRITE frame at another address, in
a READ frame, in the header, after an unknown operation (R181), with no frame (R180; log 3). -/
def Ev.word (e : Ev) (a : WordAddr) (f : Ev → Ev) : Ev :=
  if e.st.mgmt.frame = .writing a then (f e).setFrame (.writing (a + 1)) else e

/-- A field takes the value read from a word, or keeps its value and ARG is recorded (R186). -/
def Ev.writeField {α : Type} (e : Ev) (v : Option α) (f : α → State → State) : Ev :=
  match v with
  | some x => e.map (f x)
  | none => e.record .arg

/-- The command result, with the error that it records (R187). -/
def Ev.result (e : Ev) (r : CmdResult) : Ev :=
  let e1 := e.map (fun s => s.setMgmt { s.mgmt with cmdResult := r })
  match r with
  | .accepted => e1
  | .refusedBusy => e1.record .busy
  | .refusedArg => e1.record .arg

end Sys2Proof.Machine
end

