-- ==== Sys2Proof/Machine/Handshake.lean ====
section
/-! DEFINITION. The meanings of the event handshake's rows: PRESENTATION, EVACK_RISE, EVACK_FALL, HANDSHAKE_TIMEOUT. -/

namespace Sys2Proof.Machine

/-- A presentation, where one is due (R151). Every event carries out the presentation that is due after it, so one is
due only in a state that no event leaves. -/
def Ev.presentation (e : Ev) : Ev := e.map (fun s => s.setNt s.nt.present)

/-- A rising edge of EVACK (R152, R153); it does not arise in RECOVERING (log 19). -/
def Ev.evackRise (e : Ev) : Ev :=
  match e.st.nt.port with
  | .presenting => e.map (fun s => s.setNt s.nt.acknowledge)
  | .idle => e.raise 21 .spurious
  | .recovering => e

/-- A falling edge of EVACK (R153). -/
def Ev.evackFall (e : Ev) : Ev := e.map (fun s => s.setNt s.nt.evackFall)

/-- The timeout tick at the handshake timer alone (R154, log 4). -/
def Ev.handshakeTimeout (e : Ev) : Ev :=
  if e.st.nt.atTimeout then { e with jobs := e.jobs ++ [.ageTick] } else e

/-- PRESENTATION (R151). -/
def execPresentation (s : State) : Host.Outcome State Fault Refusal := happen s Ev.presentation

/-- EVACK_RISE (R153). -/
def execEvackRise (s : State) : Host.Outcome State Fault Refusal := happen s Ev.evackRise

/-- EVACK_FALL (R153). -/
def execEvackFall (s : State) : Host.Outcome State Fault Refusal := happen s Ev.evackFall

/-- HANDSHAKE_TIMEOUT (R154). -/
def execHandshakeTimeout (s : State) : Host.Outcome State Fault Refusal := happen s Ev.handshakeTimeout

end Sys2Proof.Machine
end

