-- ==== Sys2Proof/Machine/Age.lean ====
section
/-! DEFINITION. The age tick at its three users, and the meanings of the age supervisor's rows of one record: FORCE_EXPIRY,
DROP_EXPIRY. -/

namespace Sys2Proof.Machine

/-- An age tick at the age supervisor, the drain timer and the handshake timer (R107, R154, R165). -/
def Ev.ageTick (e : Ev) : Ev :=
  let e1 := (e.ageRecords (fun _ => true)).drainTick
  { e1 with jobs := e1.jobs ++ [.ageTick] }

/-- The expiry of one record: the part of the age tick that concerns it (log 4). -/
def Ev.expireOne (e : Ev) (draw : Nat) (a : AgeAction) : Ev :=
  if e.st.expiresAs draw a then e.ageRecords (fun r => r.draw == draw) else e

/-- FORCE_EXPIRY (R110). -/
def execForceExpiry (draw : Nat) (s : State) : Host.Outcome State Fault Refusal :=
  happen s (fun e => e.expireOne draw .force)

/-- DROP_EXPIRY (R113). -/
def execDropExpiry (draw : Nat) (s : State) : Host.Outcome State Fault Refusal :=
  happen s (fun e => e.expireOne draw .drop)

end Sys2Proof.Machine
end

