-- ==== Sys2Proof/Machine/Timers.lean ====
section
/-! DEFINITION. The meanings of the timebase's and the timers' rows: TAP_TICK, AGE_TICK, CYCLE_EDGE, FRAME_START,
FRAME_START_DELIVERY, CASCADE_TICK. -/

namespace Sys2Proof.Machine

/-- The tick that timer t awaits, taken as an event. -/
def Ev.settleTimer (e : Ev) (t : TimerId) : Ev :=
  match (e.st.timer t).clock with
  | .tap k => if e.st.awaits k t then { st := (e.takeTap k).close, jobs := [] } else e
  | .cycle0 => e
  | .cycle1 => e
  | .cascade => e

/-- The age tick at its users, the age supervisor, the drain timer and the handshake timer: one event (R107, R119). -/
def Ev.takeAge (e : Ev) : Ev := (e.map (fun s => s.setAgeDue false)).ageTick

/-- The age tick that its users await, taken as an event. -/
def Ev.settleAge (e : Ev) : Ev := if e.st.awaitsAge then { st := e.takeAge.close, jobs := [] } else e

/-- The next period begins, after the ticks of the present one that are not yet taken: each is an event, the timers' first
(DESIGN CHOICE, log 6: the sender orders them otherwise by their own rows). -/
def Ev.nextPeriod (e : Ev) : Ev := ((List.finRange 4).foldl Ev.settleTimer e).settleAge.map State.beginPeriod

/-- A tick of tap k (R119): that of the present period where a timer awaits it, and otherwise that of the next period,
which it begins, where the tap ticks in it; no tick of the tap falls in any other (log 3). -/
def Ev.tapTick (e : Ev) (k : Tap) : Ev :=
  if e.st.awaitsTap k then e.takeTap k
  else if tapTicks (e.st.timebase + 1) k then e.nextPeriod.takeTap k
  else e

/-- An age tick (R106, R107): that of the present period where it is not yet taken, and otherwise that of the next period,
which it begins, where the age tap ticks in it (log 3). -/
def Ev.ageTickNext (e : Ev) : Ev :=
  if e.st.awaitsAge then e.takeAge
  else if tapTicks (e.st.timebase + 1) e.st.ageTap then e.nextPeriod.takeAge
  else e

/-- A rising edge of a cycle input at every timer (R122). -/
def Ev.cycleEdge (e : Ev) (pin : CyclePin) : Ev := (List.finRange 4).foldl (fun e t => e.pinEdge pin t) e

/-- The frame start of one timer where the cause can make it (R127, log 4): the tick that brings the count to the
frame length, a sync edge in a sync mode, RESTART in every state. -/
def Ev.frameStartBy (e : Ev) (t : TimerId) (cause : FrameCause) : Ev :=
  let r := e.st.timer t
  match cause with
  | .tick => if r.state = .running ∧ r.count + 1 = r.frameLength then e.frameStart t .tick else e
  | .syncEdge => if r.sync = .free then e else e.syncEdge t
  | .restart => e.frameStart t .restart

/-- A frame start made for stream n is taken there (R128). -/
def Ev.delivery (e : Ev) (t : TimerId) (n : StreamId) : Ev :=
  if (t, n) ∈ e.st.deliveries then e.map (fun s => s.deliver t n) else e

/-- A cascade tick made for timer t is taken there (R129). DESIGN CHOICE (log 26): a timer whose clock source is no
longer CASCADE loses it. -/
def Ev.cascadeTick (e : Ev) (t : TimerId) : Ev :=
  if 0 < cell e.st.cascades t then
    let e1 := e.map (fun s => s.setCascades (updAt s.cascades t (· - 1)))
    if (e.st.timer t).clock = .cascade then e1.tick t else e1
  else e

/-- TAP_TICK (R119). -/
def execTapTick (k : Tap) (s : State) : Host.Outcome State Fault Refusal := happen s (fun e => e.tapTick k)

/-- AGE_TICK (R106): a tick of the tap that the age tap selects, at the users of age ticks. -/
def execAgeTick (s : State) : Host.Outcome State Fault Refusal := happen s Ev.ageTickNext

/-- CYCLE_EDGE (R122). -/
def execCycleEdge (pin : CyclePin) (s : State) : Host.Outcome State Fault Refusal := happen s (fun e => e.cycleEdge pin)

/-- FRAME_START (R127). -/
def execFrameStart (t : TimerId) (cause : FrameCause) (s : State) : Host.Outcome State Fault Refusal :=
  happen s (fun e => e.frameStartBy t cause)

/-- FRAME_START_DELIVERY (R128). -/
def execFrameStartDelivery (t : TimerId) (n : StreamId) (s : State) : Host.Outcome State Fault Refusal :=
  happen s (fun e => e.delivery t n)

/-- CASCADE_TICK (R129). -/
def execCascadeTick (t : TimerId) (s : State) : Host.Outcome State Fault Refusal := happen s (fun e => e.cascadeTick t)

end Sys2Proof.Machine
end

