-- ==== Sys2Proof/Machine/Autonomous.lean ====
section
/-! DEFINITION. The block's own events that are due in a state, and which of them it takes next when no command
waits. Every event fills the answer stage, takes a waiting offer and presents where that is due after it, so these three
are due only in states that no event leaves; the completion of a warm reset is due only after a start that left nothing
to wait for. -/

namespace Sys2Proof.Machine

/-- The event stands in the list where its condition holds. -/
def dueWhen (b : Bool) (i : Instr) : List Instr := if b then [i] else []

/-- The block's own events that are due: the take of a waiting offer (R32), a grant (R74), a fill (R97), a
presentation (R151), the completion of a warm reset (R167), deliveries of frame starts (R128), cascade ticks (R129), and
the ticks of the present REFCLK period that are not yet taken (R119, log 6). -/
def State.dueEvents (s : State) : List Instr :=
  if s.inReset then []
  else
    dueWhen s.takeable.isSome .requestTake ++ dueWhen s.grantReady.isSome .grant ++ dueWhen s.fillReady .answerFill ++
      dueWhen s.nt.presentable .presentation ++ dueWhen s.drained .warmResetCompletion ++
      s.deliveries.map (fun d => .frameStartDelivery d.1 d.2) ++
      ((List.finRange 4).filter (fun t => decide (0 < cell s.cascades t))).map (fun t => .cascadeTick t) ++
      ((List.finRange 16).filter s.awaitsTap).map (fun k => .tapTick k) ++ dueWhen s.awaitsAge .ageTick

/-- The due event that comes next: the only one, or one that the hardware chooses (log 2); with it, how many free
choices that read. -/
def chooseDue (k : Nat) : List Instr → Option (Instr × Nat)
  | [] => none
  | [i] => some (i, 0)
  | i :: j :: l =>
    match (i :: j :: l)[Config.freeChoice k % (l.length + 2)]? with
    | some x => some (x, 1)
    | none => some (i, 1)

end Sys2Proof.Machine
end

