-- ==== Sys2Proof/Machine/Answers.lean ====
section
/-! DEFINITION. The meanings of the answer side's rows: RESPONSE_OFFER, ANSWER_FILL, ANSWER_TAKE. -/

namespace Sys2Proof.Machine

/-- RESPONSE_OFFER (R90): discarded, taken into the answer stage or held, as every event judges a response standing on
DOWN (Ev.close). DESIGN CHOICE (log 9): where a response stands on DOWN already, the new fields take its place and are
judged at once. While cold reset is in force the offer only stands on the channel (R179, log 8). -/
def execResponseOffer (r : Response) (s : State) : Host.Outcome State Fault Refusal :=
  if s.inReset then .next (s.setDownResp (some r)) else happen s (fun e => e.map (fun s => s.setDownResp (some r)))

/-- ANSWER_FILL (R97): a fill follows every event after which one is due (Ev.brings), so one is due only in a state that
no event leaves (log 3). -/
def execAnswerFill (s : State) : Host.Outcome State Fault Refusal := happen s Ev.fill

/-- ANSWER_TAKE (R96): the stage empties; the fill that follows belongs to the event (Ev.brings). -/
def execAnswerTake (s : State) : Host.Outcome State Fault Refusal :=
  happen s (fun e => e.map (fun s => s.setAnswer { s.answer with stage := none }))

end Sys2Proof.Machine
end

