-- ==== Sys2Proof/Machine/Issue.lean ====
section
/-! DEFINITION. The meanings of the issue side's rows: GRANT, ISSUE_TAKE. -/

namespace Sys2Proof.Machine

/-- A grant, when the issue stage is empty and there is a candidate (R74). -/
def Ev.grant (e : Ev) : Ev :=
  match e.st.grantReady with
  | none => e
  | some r => e.map (fun s => s.grantTo r)

/-- DOWN takes the issue stage's request: the stage empties, a WRITE's beats are freed (R81). -/
def State.issueTake (s : State) : State :=
  match s.issue.stage with
  | none => s
  | some _ => (s.setIssue { s.issue with stage := none }).setWdb (s.wdb.filter (fun a => !s.stageHolds a))

/-- GRANT (R78). -/
def execGrant (s : State) : Host.Outcome State Fault Refusal := happen s Ev.grant

/-- ISSUE_TAKE (R81). -/
def execIssueTake (s : State) : Host.Outcome State Fault Refusal := happen s (fun e => e.map State.issueTake)

end Sys2Proof.Machine
end

