-- ==== Sys2Proof/Machine/Resets.lean ====
section
/-! DEFINITION. The meanings of the resets' rows: WRSTN_FALL, DRAIN_TIMEOUT, WARM_RESET_COMPLETION, COLD_RESET,
COLD_RESET_RELEASE. -/

namespace Sys2Proof.Machine

/-- A falling edge on WRSTn: the start of a warm reset, ignored in DRAINING (R161). -/
def Ev.wrstnFall (e : Ev) : Ev := if e.st.dev.mode = .draining then e else e.map State.warmStart

/-- The timeout tick at the drain timer alone (R166, log 4). -/
def Ev.drainTimeoutIfDue (e : Ev) : Ev := if e.st.dev.atTimeout then e.drainTimeout else e

/-- The release of cold reset (R170, R179): an offer standing on UP is a new offer made now, which the event takes
where R32 lets it (Ev.brings), and so is a response standing on DOWN, which the event judges (Ev.close). -/
def Ev.release (e : Ev) : Ev := e.map (fun s => s.setInReset false)

/-- WRSTN_FALL (R161). -/
def execWrstnFall (s : State) : Host.Outcome State Fault Refusal := askReset s Ev.wrstnFall

/-- DRAIN_TIMEOUT (R166). -/
def execDrainTimeout (s : State) : Host.Outcome State Fault Refusal := happen s Ev.drainTimeoutIfDue

/-- WARM_RESET_COMPLETION (R167): the completion where it is due, an event with no effect of its own before it. Every
event of a drain that ends it completes the warm reset, so one is due only after a start that left nothing to wait for
(log 31). -/
def execWarmResetCompletion (s : State) : Host.Outcome State Fault Refusal := event s Ev.close

/-- COLD_RESET (R170, R171). -/
def execColdReset (s : State) : Host.Outcome State Fault Refusal := .next s.coldReset

/-- COLD_RESET_RELEASE (R170, R179); with no cold reset in force nothing is released. -/
def execColdResetRelease (s : State) : Host.Outcome State Fault Refusal :=
  if s.inReset then .next (Ev.release { st := s, jobs := [] }).close else .next s

end Sys2Proof.Machine
end

