-- ==== Sys2Proof/Machine/Commands.lean ====
section
/-! DEFINITION. The commands of the command register (12.4): what each does, what a command word does, and the
meanings of their rows. -/

namespace Sys2Proof.Machine

/-- INSTALL (R8), rejected when the page base is above the page limit (R9). -/
def Ev.install (e : Ev) (i : Fin 32) : Ev :=
  if e.st.staging.pageBase ≤ e.st.staging.pageLimit then
    (e.map (fun s => s.setMatchList (updAt s.matchList i (fun _ => { valid := true, rule := s.staging })))).result .accepted
  else (e.result .refusedArg).raise 23 .rejected

/-- REMOVE (R10). -/
def Ev.remove (e : Ev) (i : Fin 32) : Ev :=
  (e.map (fun s => s.setMatchList (updAt s.matchList i (fun m => { m with valid := false })))).result .accepted

/-- APPLY_NOW (R18), refused in DRAINING. -/
def Ev.applyNow (e : Ev) (mask : StreamMask) : Ev :=
  if e.st.dev.mode = .draining then e.result .refusedBusy
  else (e.map (fun s => s.onStreams mask Stream.apply)).result .accepted

/-- DISCARD_PENDING (R19). -/
def Ev.discardPending (e : Ev) (mask : StreamMask) : Ev :=
  (e.map (fun s => s.onStreams mask Stream.discard)).result .accepted

/-- STREAM_ON and STREAM_OFF (R26). -/
def Ev.setStreamMode (e : Ev) (mask : StreamMask) (m : StreamMode) : Ev :=
  (e.map (fun s => s.onStreams mask (fun st => { st with mode := m }))).result .accepted

/-- TIMER_CMD START (R131). -/
def Ev.startTimers (e : Ev) (mask : TimerMask) : Ev := (e.map (fun s => s.onTimers mask Timer.start)).result .accepted

/-- TIMER_CMD STOP (R131). -/
def Ev.stopTimers (e : Ev) (mask : TimerMask) : Ev := (e.map (fun s => s.onTimers mask Timer.stop)).result .accepted

/-- TIMER_CMD RESTART (R132). -/
def Ev.restartTimers (e : Ev) (mask : TimerMask) : Ev := (e.restart mask).result .accepted

/-- TIMER_CMD START together with RESTART: the restart, then the start (R132). -/
def Ev.startRestartTimers (e : Ev) (mask : TimerMask) : Ev :=
  ((e.restart mask).map (fun s => s.onTimers mask Timer.start)).result .accepted

/-- SET_MODE (R159): refused BUSY in DRAINING, whatever its operand (log 13). -/
def Ev.setMode (e : Ev) (code : BitVec 2) : Ev :=
  if e.st.dev.mode = .draining then e.result .refusedBusy
  else
    match code.toNat with
    | 0 => (e.map (fun s => s.setDev { s.dev with mode := .bypass })).result .accepted
    | 1 => (e.map (fun s => s.setDev { s.dev with mode := .regulate })).result .accepted
    | _ => e.result .refusedArg

/-- WARM_RESET (R161). -/
def Ev.warmReset (e : Ev) : Ev :=
  if e.st.dev.mode = .draining then e.result .refusedBusy else (e.result .accepted).map State.warmStart

/-- The snapshot record of stream n (R189). -/
def State.snapshotOf (s : State) (n : StreamId) : Snapshot :=
  let st := s.stream n
  { valid := true, stream := n, counters := st.counters, credit := st.credit, queueLength := (s.queue n).length,
    issueCount := st.issueCount }

/-- SNAPSHOT (R189). -/
def Ev.snapshot (e : Ev) (n : StreamId) (clear : Bool) : Ev :=
  let e1 := e.map (fun s => s.setMgmt { s.mgmt with snapshot := s.snapshotOf n })
  (if clear then e1.map (fun s => s.onStream n (fun st => { st with counters := Counters.zero })) else e1).result .accepted

/-- TIMER_CMD by its operation code (R130). -/
def Ev.timerCmd (e : Ev) (mask : TimerMask) (op : BitVec 3) : Ev :=
  match op.toNat with
  | 1 => e.startTimers mask
  | 2 => e.stopTimers mask
  | 3 => e.restartTimers mask
  | 4 => e.startRestartTimers mask
  | _ => e.result .refusedArg

/-- What a command does (R187). -/
def Ev.command (e : Ev) : Command → Ev
  | .install i => e.install i
  | .remove i => e.remove i
  | .applyNow m => e.applyNow m
  | .discardPending m => e.discardPending m
  | .streamOn m => e.setStreamMode m .on
  | .streamOff m => e.setStreamMode m .off
  | .timerCmd m op => e.timerCmd m op
  | .setMode c => e.setMode c
  | .warmReset => e.warmReset
  | .snapshot n c => e.snapshot n c
  | .unknown _ => e.result .refusedArg

/-- The event of a command's word: a WARM_RESET is a request for a warm reset (R161). -/
def happenCommand (c : Command) (s : State) (f : Ev → Ev) : Host.Outcome State Fault Refusal :=
  if c = .warmReset then askReset s f else happen s f

/-! ### Meanings -/

/-- INSTALL (R8, R9). -/
def execInstall (i : Fin 32) (s : State) : Host.Outcome State Fault Refusal :=
  happen s (fun e => e.word commandAddr (fun e => e.install i))

/-- REMOVE (R10). -/
def execRemove (i : Fin 32) (s : State) : Host.Outcome State Fault Refusal :=
  happen s (fun e => e.word commandAddr (fun e => e.remove i))

/-- APPLY_NOW (R18). -/
def execApplyNow (mask : StreamMask) (s : State) : Host.Outcome State Fault Refusal :=
  happen s (fun e => e.word commandAddr (fun e => e.applyNow mask))

/-- DISCARD_PENDING (R19). -/
def execDiscardPending (mask : StreamMask) (s : State) : Host.Outcome State Fault Refusal :=
  happen s (fun e => e.word commandAddr (fun e => e.discardPending mask))

/-- STREAM_ON (R26). -/
def execStreamOn (mask : StreamMask) (s : State) : Host.Outcome State Fault Refusal :=
  happen s (fun e => e.word commandAddr (fun e => e.setStreamMode mask .on))

/-- STREAM_OFF (R26). -/
def execStreamOff (mask : StreamMask) (s : State) : Host.Outcome State Fault Refusal :=
  happen s (fun e => e.word commandAddr (fun e => e.setStreamMode mask .off))

/-- START (R131). -/
def execStart (mask : TimerMask) (s : State) : Host.Outcome State Fault Refusal :=
  happen s (fun e => e.word commandAddr (fun e => e.startTimers mask))

/-- STOP (R131). -/
def execStop (mask : TimerMask) (s : State) : Host.Outcome State Fault Refusal :=
  happen s (fun e => e.word commandAddr (fun e => e.stopTimers mask))

/-- RESTART (R132). -/
def execRestart (mask : TimerMask) (s : State) : Host.Outcome State Fault Refusal :=
  happen s (fun e => e.word commandAddr (fun e => e.restartTimers mask))

/-- START_RESTART (R132). -/
def execStartRestart (mask : TimerMask) (s : State) : Host.Outcome State Fault Refusal :=
  happen s (fun e => e.word commandAddr (fun e => e.startRestartTimers mask))

/-- SET_MODE (R159). -/
def execSetMode (code : BitVec 2) (s : State) : Host.Outcome State Fault Refusal :=
  happen s (fun e => e.word commandAddr (fun e => e.setMode code))

/-- WARM_RESET (R161). -/
def execWarmReset (s : State) : Host.Outcome State Fault Refusal :=
  askReset s (fun e => e.word commandAddr Ev.warmReset)

/-- SNAPSHOT (R189). -/
def execSnapshot (n : StreamId) (clear : Bool) (s : State) : Host.Outcome State Fault Refusal :=
  happen s (fun e => e.word commandAddr (fun e => e.snapshot n clear))

/-- UNKNOWN_COMMAND (R187); a word whose code does name a command acts as that command (log 21). -/
def execUnknownCommand (w : Word) (s : State) : Host.Outcome State Fault Refusal :=
  happenCommand (decodeCommand w) s (fun e => e.word commandAddr (fun e => e.command (decodeCommand w)))

/-- TIMER_CMD_UNKNOWN_OPERATION (R130); a code that does name an operation acts as that operation (log 21). -/
def execTimerCmdUnknownOperation (mask : TimerMask) (op : BitVec 3) (s : State) : Host.Outcome State Fault Refusal :=
  happen s (fun e => e.word commandAddr (fun e => e.timerCmd mask op))

end Sys2Proof.Machine
end

