-- ==== Sys2Proof/Machine/Registers.lean ====
section
/-! DEFINITION. The register window (12.3): what each word reads as, and what a word written to each writable register
does; with the meanings of the rows that are writes of one register. -/

namespace Sys2Proof.Machine

/-! ### Reads (12.3, R183) -/

/-- The seven counters in the order of the window (12.3). -/
def Counters.word (c : Counters) : Nat → Option Word
  | 0 => some c.issuedRequests
  | 1 => some c.issuedBeats
  | 2 => some c.excessBeats
  | 3 => some c.waitedRequests
  | 4 => some c.refusedRequests
  | 5 => some c.expiredRequests
  | 6 => some c.memoryErrors
  | _ => none

/-- A word of the device group, 000h to 00Fh; the command register reads 0 (R183). -/
def State.deviceWord (s : State) : Nat → Option Nat
  | 0x0 => some s.dev.mode.code
  | 0x1 => some 0
  | 0x2 => some s.mgmt.cmdResult.code
  | 0x3 => some s.nt.clearStyle.code
  | 0x4 => some s.nt.threshold.val
  | 0x5 => some s.nt.topNotice
  | 0x6 => some s.ageTap.val
  | 0x7 => some s.dev.drainLimit
  | 0x8 => some s.nt.limit
  | 0x9 => some (winSelectCode (cell s.winSelect 0))
  | 0xA => some (winSelectCode (cell s.winSelect 1))
  | 0xB => some (winSelectCode (cell s.winSelect 2))
  | 0xC => some (winSelectCode (cell s.winSelect 3))
  | 0xD => some s.storeOccupancy
  | 0xE => some s.orderOccupancy
  | 0xF => some s.bufferUsed
  | _ => none

/-- A word of the readback of match list entry i (R11, 12.3). DESIGN CHOICE (log 25): bits 30:20 and 15:14 of its first
word, in which the packed layout names no field, read 0. -/
def MatchEntry.word (e : MatchEntry) : Nat → Nat
  | 0 =>
    flagCode e.valid * 2 ^ 31 + e.rule.stream.val * 2 ^ 16 + e.rule.kind.code * 2 ^ 12 +
      e.rule.sourceMask.toNat * 2 ^ 6 + e.rule.sourceValue.toNat
  | 1 => e.rule.pageBase.toNat
  | 2 => e.rule.pageLimit.toNat
  | _ => 0

/-- A word of the block of stream n: pending set, live set, credit, issue count, queue length, flags, counters (12.3).
DESIGN CHOICE (log 25): bits 31:3 of the flags word, offset 23h, in which 12.3 names no field, read 0. -/
def State.streamWord (s : State) (n : StreamId) (o : Nat) : Option Word :=
  let st := s.stream n
  if o < 0x10 then (paramAt o).map (fun p => BitVec.ofNat 32 (st.pend.read p))
  else if o < 0x20 then (paramAt (o - 0x10)).map (fun p => BitVec.ofNat 32 (st.live.read p))
  else if o = 0x20 then some (BitVec.ofNat 32 st.credit)
  else if o = 0x21 then some (BitVec.ofNat 32 st.issueCount)
  else if o = 0x22 then some (BitVec.ofNat 32 (s.queue n).length)
  else if o = 0x23 then
    some (BitVec.ofNat 32 (flagCode (st.mode == .on) + 2 * flagCode st.pendingValid + 4 * flagCode st.noted))
  else if o < 0x28 then none
  else st.counters.word (o - 0x28)

/-- A word of a timer block (R138, 12.3). -/
def Timer.word (t : Timer) : Nat → Option Nat
  | 0 => some t.state.code
  | 1 => some t.count
  | 2 => some t.frameLength
  | 3 => some t.pendingLength
  | 4 => some (flagCode t.pendingValid)
  | 5 => some t.clock.code
  | 6 => some t.sync.code
  | _ => none

/-- A word of the block of a notice source (12.3). -/
def NoticeSource.word (q : NoticeSource) : Nat → Option Nat
  | 0 => some q.causes.toNat
  | 1 => some (flagCode q.enable)
  | 2 => some q.level.val
  | 3 => some q.route.code
  | 4 => some (flagCode q.notifyAfter)
  | _ => none

/-- A word of the handshake status group (R148). -/
def Notices.statusWord (nt : Notices) : Nat → Option Nat
  | 0 => some nt.port.code
  | 1 => some nt.queue.length
  | 2 =>
    match nt.queue with
    | e :: _ => some e.source.val
    | [] => some 31
  | _ => none

/-- A word of the snapshot record (12.6). DESIGN CHOICE (log 25): bits 30:4 of its first word, 780h, in which 12.6 names
no field, read 0. -/
def Snapshot.word (r : Snapshot) (o : Nat) : Option Word :=
  if o = 0 then some (BitVec.ofNat 32 (flagCode r.valid * 2 ^ 31 + r.stream.val))
  else if o ≤ 7 then r.counters.word (o - 1)
  else if o = 8 then some (BitVec.ofNat 32 r.credit)
  else if o = 9 then some (BitVec.ofNat 32 r.queueLength)
  else if o = 10 then some (BitVec.ofNat 32 r.issueCount)
  else none

/-- What the word at an address reads as; none at an unmapped address (R183, 12.3). -/
def State.wordAt (s : State) (a : WordAddr) : Option Word :=
  let n := a.toNat
  if n < 0x010 then (s.deviceWord n).map (BitVec.ofNat 32)
  else if n < 0x020 then none
  else if n < 0x040 then (stagingAt (n - 0x020)).map (fun f => BitVec.ofNat 32 (s.staging.read f))
  else if n < 0x0C0 then
    some (BitVec.ofNat 32 ((cell s.matchList (Fin.ofNat 32 ((n - 0x040) / 4))).word ((n - 0x040) % 4)))
  else if n < 0x100 then none
  else if n < 0x500 then s.streamWord (Fin.ofNat 16 ((n - 0x100) / 0x40)) ((n - 0x100) % 0x40)
  else if n < 0x520 then
    ((s.timer (Fin.ofNat 4 ((n - 0x500) / 8))).word ((n - 0x500) % 8)).map (BitVec.ofNat 32)
  else if n < 0x600 then none
  else if n < 0x6C0 then
    ((cell s.nt.sources (Fin.ofNat 24 ((n - 0x600) / 8))).word ((n - 0x600) % 8)).map (BitVec.ofNat 32)
  else if n < 0x700 then none
  else if n < 0x780 then (s.nt.statusWord (n - 0x700)).map (BitVec.ofNat 32)
  else if n < 0x78B then s.mgmt.snapshot.word (n - 0x780)
  else none

/-- The word at an address is captured, and the frame's current address moves on: an unmapped address gives 0 and
records ADDR (R183). -/
def Ev.capture (e : Ev) (a : WordAddr) : Ev :=
  let done (w : Word) : Ev :=
    e.map (fun s => s.setMgmt { s.mgmt with readWord := w, frame := .reading (a + 1) })
  match e.st.wordAt a with
  | some w => done w
  | none => (done 0).record .addr

/-! ### Writes (R186) -/

/-- A staging field (R7). -/
def Ev.writeStaging (e : Ev) (f : StagingField) (v : Word) : Ev :=
  e.writeField (e.st.staging.write f v.toNat) (fun m s => s.setStaging m)

/-- A pending stream parameter (R15). -/
def Ev.writePending (e : Ev) (n : StreamId) (p : Param) (v : Word) : Ev :=
  e.writeField ((e.st.stream n).pend.write p v.toNat)
    (fun q s => s.onStream n (fun st => { st with pend := q, pendingValid := true }))

/-- A frame length, to the pending copy (R133). -/
def Ev.writeFrameLength (e : Ev) (t : TimerId) (v : Word) : Ev :=
  e.writeField (numFromOne 65535 v.toNat)
    (fun l s => s.onTimer t (fun x => { x with pendingLength := l, pendingValid := true }))

/-- A field of a timer that is written only while it is STOPPED (R134): a number that the field cannot take records
ARG, any other is refused BUSY in ARMED and RUNNING (log 22). -/
def Ev.writeStopped {α : Type} (e : Ev) (t : TimerId) (v : Option α) (f : α → Timer → Timer) : Ev :=
  match v with
  | none => e.record .arg
  | some x => if (e.st.timer t).state = .stopped then e.map (fun s => s.onTimer t (f x)) else e.record .busy

/-- A clock source (R134). -/
def Ev.writeClock (e : Ev) (t : TimerId) (v : Word) : Ev :=
  e.writeStopped t (clockSourceOf t v.toNat) (fun c x => { x with clock := c })

/-- A sync mode (R134). -/
def Ev.writeSync (e : Ev) (t : TimerId) (v : Word) : Ev :=
  e.writeStopped t (syncModeOf v.toNat) (fun c x => { x with sync := c })

/-- A window select (R136). -/
def Ev.writeWin (e : Ev) (w : Fin 4) (v : Word) : Ev :=
  e.writeField (winSelectOf v.toNat) (fun x s => s.setWinSelect (updAt s.winSelect w (fun _ => x)))

/-- A notice configuration field (R140). -/
def Ev.writeNotice (e : Ev) (f : NoticeSetting) (v : Word) : Ev :=
  e.writeField (e.st.nt.write f v.toNat) (fun nt s => s.setNt nt)

/-- A cause register, which takes every number (R145, R146, R186). -/
def Ev.writeCause (e : Ev) (x : NoticeId) (v : Word) : Ev := e.map (fun s => s.setNt (s.nt.writeCauses x v))

/-- The handshake limit (R154). -/
def Ev.writeHandshakeLimit (e : Ev) (v : Word) : Ev :=
  e.writeField (numFromOne 65535 v.toNat) (fun l s => s.setNt { s.nt with limit := l })

/-- The age tap (R106). -/
def Ev.writeAgeTap (e : Ev) (v : Word) : Ev := e.writeField (finBelow 16 v.toNat) (fun k s => s.setAgeTap k)

/-- The drain limit (R165). -/
def Ev.writeDrainLimit (e : Ev) (v : Word) : Ev :=
  e.writeField (numUpTo 65535 v.toNat) (fun l s => s.setDev { s.dev with drainLimit := l })

/-- A word written to a writable register, by its owning rule (R186). -/
def Ev.writeReg (e : Ev) (r : Reg) (v : Word) : Ev :=
  match r with
  | .staging f => e.writeStaging f v
  | .pending n p => e.writePending n p v
  | .frameLength t => e.writeFrameLength t v
  | .clockSource t => e.writeClock t v
  | .syncMode t => e.writeSync t v
  | .winSelect w => e.writeWin w v
  | .notice f => e.writeNotice f v
  | .cause x => e.writeCause x v
  | .handshakeLimit => e.writeHandshakeLimit v
  | .ageTap => e.writeAgeTap v
  | .drainLimit => e.writeDrainLimit v

/-! ### Meanings -/

/-- STAGING_WRITE (R7). -/
def execStagingWrite (f : StagingField) (v : Word) (s : State) : Host.Outcome State Fault Refusal :=
  happen s (fun e => e.word (Reg.staging f).addr (fun e => e.writeStaging f v))

/-- PENDING_WRITE (R15). -/
def execPendingWrite (n : StreamId) (p : Param) (v : Word) (s : State) : Host.Outcome State Fault Refusal :=
  happen s (fun e => e.word (Reg.pending n p).addr (fun e => e.writePending n p v))

/-- FRAME_LENGTH_WRITE (R133). -/
def execFrameLengthWrite (t : TimerId) (v : Word) (s : State) : Host.Outcome State Fault Refusal :=
  happen s (fun e => e.word (Reg.frameLength t).addr (fun e => e.writeFrameLength t v))

/-- CLOCK_SOURCE_WRITE (R134). -/
def execClockSourceWrite (t : TimerId) (v : Word) (s : State) : Host.Outcome State Fault Refusal :=
  happen s (fun e => e.word (Reg.clockSource t).addr (fun e => e.writeClock t v))

/-- SYNC_MODE_WRITE (R134). -/
def execSyncModeWrite (t : TimerId) (v : Word) (s : State) : Host.Outcome State Fault Refusal :=
  happen s (fun e => e.word (Reg.syncMode t).addr (fun e => e.writeSync t v))

/-- WIN_SELECT_WRITE (R136). -/
def execWinSelectWrite (w : Fin 4) (v : Word) (s : State) : Host.Outcome State Fault Refusal :=
  happen s (fun e => e.word (Reg.winSelect w).addr (fun e => e.writeWin w v))

/-- NOTICE_CONFIG_WRITE (R140). -/
def execNoticeConfigWrite (f : NoticeSetting) (v : Word) (s : State) : Host.Outcome State Fault Refusal :=
  happen s (fun e => e.word f.addr (fun e => e.writeNotice f v))

/-- CAUSE_CLEAR (R145): a write to a cause register, which the clear style governs (log 14). -/
def execCauseClear (x : NoticeId) (v : Word) (s : State) : Host.Outcome State Fault Refusal :=
  happen s (fun e => e.word (Reg.cause x).addr (fun e => e.writeCause x v))

/-- CAUSE_WRITE_DIRECT (R146): a write to a cause register, which the clear style governs (log 14). -/
def execCauseWriteDirect (x : NoticeId) (v : Word) (s : State) : Host.Outcome State Fault Refusal :=
  happen s (fun e => e.word (Reg.cause x).addr (fun e => e.writeCause x v))

/-- HANDSHAKE_LIMIT_WRITE (R154). -/
def execHandshakeLimitWrite (v : Word) (s : State) : Host.Outcome State Fault Refusal :=
  happen s (fun e => e.word Reg.handshakeLimit.addr (fun e => e.writeHandshakeLimit v))

/-- AGE_TAP_WRITE (R106). -/
def execAgeTapWrite (v : Word) (s : State) : Host.Outcome State Fault Refusal :=
  happen s (fun e => e.word Reg.ageTap.addr (fun e => e.writeAgeTap v))

/-- DRAIN_LIMIT_WRITE (R165). -/
def execDrainLimitWrite (v : Word) (s : State) : Host.Outcome State Fault Refusal :=
  happen s (fun e => e.word Reg.drainLimit.addr (fun e => e.writeDrainLimit v))

end Sys2Proof.Machine
end

