-- ==== Sys2Proof/Machine/Spi.lean ====
section
/-! DEFINITION. The SPI frame, its header and its words (12.1): SPI_FRAME_START, UNKNOWN_OPERATION, SPI_FRAME_END,
UNMAPPED_READ, REGISTER_WRITE. -/

namespace Sys2Proof.Machine

/-- CSn falls (R180): the status byte is captured, then the last error is cleared, and a frame begins. It cannot fall
while it is low (log 3). -/
def Ev.frameBegins (e : Ev) : Ev :=
  if e.st.mgmt.selected then e
  else
    e.map (fun s =>
      s.setMgmt { s.mgmt with selected := true, frame := .header, statusByte := s.status, lastError := .none })

/-- The header of a frame (R181): byte 0 makes the frame a READ or a WRITE, and bytes 1 and 2 are then its starting word
address; any other byte 0 is an unknown operation, and the rest of the frame is ignored. A frame has one header
(log 3). -/
def Ev.header (e : Ev) (h : Header) : Ev :=
  if e.st.mgmt.frame = .header then
    match decodeOperation h.byte with
    | some .read => e.setFrame (.turnaround h.start)
    | some .write => e.setFrame (.writing h.start)
    | none => ((e.record .frame).raise 23 .mgmtFrame).setFrame .ignored
  else e

/-- A rise of CSn at a place of the frame cuts short a part of it that is reported: an incomplete header, or a word;
not the turnaround byte, nor anything after an unknown operation (R181, R184). -/
def SpiFrame.cutShort (f : SpiFrame) (cut : FrameCut) : Bool :=
  match cut with
  | .between => false
  | .partway =>
    match f with
    | .header => true
    | .reading _ => true
    | .writing _ => true
    | .turnaround _ => false
    | .ignored => false
    | .none => false

/-- CSn rises: the end of a frame, if one is in progress (R180, R181, R184). -/
def Ev.frameEnds (e : Ev) (cut : FrameCut) : Ev :=
  let e1 := if e.st.mgmt.frame.cutShort cut then e.record .frame else e
  e1.map (fun s => s.setMgmt { s.mgmt with selected := false, frame := .none })

/-- What a word at an address does, by the kind of the address (R182). -/
def Ev.wordAtAddr (e : Ev) (a : WordAddr) (v : Word) : Ev :=
  match addrKind a with
  | .writable r => e.writeReg r v
  | .command => e.command (decodeCommand v)
  | .readOnly => e.record .addr
  | .unmapped => e.record .addr

/-- A word of a READ frame captured at word address a: it is captured, and the frame's address moves on, by 1 and
wrapping, where a is the frame's current address (R183). Otherwise no such word is captured (log 3). DESIGN CHOICE
(log 32): whether the last bit of the frame's last word captures the word at the next address is the sender's to say, who
gives this row once more before the frame's end, or does not. -/
def Ev.readWord (e : Ev) (a : WordAddr) : Ev :=
  if e.st.mgmt.frame = .turnaround a ∨ e.st.mgmt.frame = .reading a then e.capture a else e

/-- The level of CSn alone changes: it is low, or it is high. -/
def State.select (s : State) (low : Bool) : State := s.setMgmt { s.mgmt with selected := low }

/-! ### Meanings -/

/-- SPI_FRAME_START (R180). While cold reset is in force no frame begins and the pin alone is low (log 8). -/
def execSpiFrameStart (s : State) : Host.Outcome State Fault Refusal :=
  if s.inReset then .next (s.select true) else happen s Ev.frameBegins

/-- UNKNOWN_OPERATION (R181); with a byte 0 that names an operation it is that operation's header (log 15). -/
def execUnknownOperation (h : Header) (s : State) : Host.Outcome State Fault Refusal :=
  happen s (fun e => e.header h)

/-- SPI_FRAME_END (R181, R184). While cold reset is in force the pin alone rises (log 8). -/
def execSpiFrameEnd (cut : FrameCut) (s : State) : Host.Outcome State Fault Refusal :=
  if s.inReset then .next (s.select false) else happen s (fun e => e.frameEnds cut)

/-- UNMAPPED_READ (R183); at a mapped address the word is captured without an error (log 15). -/
def execUnmappedRead (a : WordAddr) (s : State) : Host.Outcome State Fault Refusal := happen s (fun e => e.readWord a)

/-- REGISTER_WRITE (R182); at a writable address or the command register the word acts by its owner (log 15). -/
def execRegisterWrite (a : WordAddr) (v : Word) (s : State) : Host.Outcome State Fault Refusal :=
  if a = commandAddr then happenCommand (decodeCommand v) s (fun e => e.word a (fun e => e.wordAtAddr a v))
  else happen s (fun e => e.word a (fun e => e.wordAtAddr a v))

end Sys2Proof.Machine
end

