-- ==== Sys2Proof/Machine/UpPort.lean ====
section
/-! DEFINITION. The meanings of the UP port's rows: REQUEST_OFFER, OFFER_WITHDRAWN, REQUEST_TAKE. -/

namespace Sys2Proof.Machine

/-- The request stands on UP's request channel. With no offer standing before, no resource lacks yet; a change of the
field lines under a standing VALID is the same offer (R34, R172, log 9). -/
def State.present (s : State) (r : Request) : State :=
  s.setUp
    { s.up with
      offer := some r
      lacking := match s.up.offer with
        | none => Lacking.none
        | some _ => s.up.lacking }

/-- An offer ends with nothing taken (R172). -/
def State.withdraw (s : State) : Channel → State
  | .upRequest => s.setUp { s.up with offer := none, lacking := Lacking.none }
  | .downResponse => s.setDownResp none

/-- REQUEST_OFFER (R32): taken at the offer if R32 lets it, as at the end of every event (Ev.brings). While cold reset is
in force the offer only stands on the channel (R179, log 8). -/
def execRequestOffer (r : Request) (s : State) : Host.Outcome State Fault Refusal :=
  if s.inReset then .next (s.present r) else happen s (fun e => e.map (fun s => s.present r))

/-- OFFER_WITHDRAWN (R172). -/
def execOfferWithdrawn (c : Channel) (s : State) : Host.Outcome State Fault Refusal :=
  if s.inReset then .next (s.withdraw c) else happen s (fun e => e.map (fun s => s.withdraw c))

/-- REQUEST_TAKE (R32): a waiting offer is taken if R32 lets it (log 3). Every event takes the offer that can be taken
after it, so one is due only in a state that no event leaves. -/
def execRequestTake (s : State) : Host.Outcome State Fault Refusal := happen s Ev.takeIfAble

end Sys2Proof.Machine
end

