-- ==== Sys2Proof/Machine/Dispatch.lean ====
section
/-! DEFINITION. The one dispatch of commands to their meanings, an arm for each row of the table. -/

namespace Sys2Proof.Machine

/-- The effect of a command on everything but the queue. -/
def exec (i : Instr) (s : State) : Host.Outcome State Fault Refusal :=
  match i with
  | .requestOffer r => Sys2Proof.Machine.execRequestOffer r s
  | .offerWithdrawn c => Sys2Proof.Machine.execOfferWithdrawn c s
  | .requestTake => Sys2Proof.Machine.execRequestTake s
  | .grant => Sys2Proof.Machine.execGrant s
  | .issueTake => Sys2Proof.Machine.execIssueTake s
  | .responseOffer r => Sys2Proof.Machine.execResponseOffer r s
  | .answerFill => Sys2Proof.Machine.execAnswerFill s
  | .answerTake => Sys2Proof.Machine.execAnswerTake s
  | .tapTick k => Sys2Proof.Machine.execTapTick k s
  | .cycleEdge pin => Sys2Proof.Machine.execCycleEdge pin s
  | .frameStart t cause => Sys2Proof.Machine.execFrameStart t cause s
  | .frameStartDelivery t n => Sys2Proof.Machine.execFrameStartDelivery t n s
  | .cascadeTick t => Sys2Proof.Machine.execCascadeTick t s
  | .ageTick => Sys2Proof.Machine.execAgeTick s
  | .forceExpiry draw => Sys2Proof.Machine.execForceExpiry draw s
  | .dropExpiry draw => Sys2Proof.Machine.execDropExpiry draw s
  | .presentation => Sys2Proof.Machine.execPresentation s
  | .evackRise => Sys2Proof.Machine.execEvackRise s
  | .evackFall => Sys2Proof.Machine.execEvackFall s
  | .handshakeTimeout => Sys2Proof.Machine.execHandshakeTimeout s
  | .wrstnFall => Sys2Proof.Machine.execWrstnFall s
  | .drainTimeout => Sys2Proof.Machine.execDrainTimeout s
  | .warmResetCompletion => Sys2Proof.Machine.execWarmResetCompletion s
  | .coldReset => Sys2Proof.Machine.execColdReset s
  | .coldResetRelease => Sys2Proof.Machine.execColdResetRelease s
  | .spiFrameStart => Sys2Proof.Machine.execSpiFrameStart s
  | .unknownOperation h => Sys2Proof.Machine.execUnknownOperation h s
  | .spiFrameEnd cut => Sys2Proof.Machine.execSpiFrameEnd cut s
  | .unmappedRead addr => Sys2Proof.Machine.execUnmappedRead addr s
  | .registerWrite addr value => Sys2Proof.Machine.execRegisterWrite addr value s
  | .stagingWrite f value => Sys2Proof.Machine.execStagingWrite f value s
  | .pendingWrite n p value => Sys2Proof.Machine.execPendingWrite n p value s
  | .frameLengthWrite t value => Sys2Proof.Machine.execFrameLengthWrite t value s
  | .clockSourceWrite t value => Sys2Proof.Machine.execClockSourceWrite t value s
  | .syncModeWrite t value => Sys2Proof.Machine.execSyncModeWrite t value s
  | .winSelectWrite w value => Sys2Proof.Machine.execWinSelectWrite w value s
  | .noticeConfigWrite f value => Sys2Proof.Machine.execNoticeConfigWrite f value s
  | .causeClear x value => Sys2Proof.Machine.execCauseClear x value s
  | .causeWriteDirect x value => Sys2Proof.Machine.execCauseWriteDirect x value s
  | .handshakeLimitWrite value => Sys2Proof.Machine.execHandshakeLimitWrite value s
  | .ageTapWrite value => Sys2Proof.Machine.execAgeTapWrite value s
  | .drainLimitWrite value => Sys2Proof.Machine.execDrainLimitWrite value s
  | .install k => Sys2Proof.Machine.execInstall k s
  | .remove k => Sys2Proof.Machine.execRemove k s
  | .applyNow mask => Sys2Proof.Machine.execApplyNow mask s
  | .discardPending mask => Sys2Proof.Machine.execDiscardPending mask s
  | .streamOn mask => Sys2Proof.Machine.execStreamOn mask s
  | .streamOff mask => Sys2Proof.Machine.execStreamOff mask s
  | .start mask => Sys2Proof.Machine.execStart mask s
  | .stop mask => Sys2Proof.Machine.execStop mask s
  | .restart mask => Sys2Proof.Machine.execRestart mask s
  | .startRestart mask => Sys2Proof.Machine.execStartRestart mask s
  | .setMode code => Sys2Proof.Machine.execSetMode code s
  | .warmReset => Sys2Proof.Machine.execWarmReset s
  | .snapshot n clear => Sys2Proof.Machine.execSnapshot n clear s
  | .unknownCommand word => Sys2Proof.Machine.execUnknownCommand word s
  | .timerCmdUnknownOperation mask op => Sys2Proof.Machine.execTimerCmdUnknownOperation mask op s

end Sys2Proof.Machine
end

