-- ==== Sys2Proof/Machine/Step.lean ====
section
/-! DEFINITION. One step: the command at the front of the queue, or, with the queue empty, one of the block's own due
events. -/

namespace Sys2Proof.Machine

/-- One step of the block. With commands waiting, the first one leaves the queue and has its effect. With none
waiting the block takes one of its own due events, and idles when none is due (log 2). -/
def step (s : State) : Host.Outcome State Fault Refusal :=
  match s.pending with
  | c :: rest => exec c (s.setPending rest)
  | [] =>
    match chooseDue s.freeCount s.dueEvents with
    | none => .next s
    | some (c, k) => exec c (s.setFreeCount (s.freeCount + k))

/-- s with the command that a word spells put at the front of its queue, and s where it spells none (log 30). -/
def State.withFetchWord (s : State) (nbits w : Nat) : State :=
  match decodeTableWord nbits w with
  | some c => s.setPending (c :: s.pending)
  | none => s

end Sys2Proof.Machine
end

