-- ==== Sys2Proof/Safety.lean ====
section
/-! DEFINITION. What counts as a safe state of the J416, in the terms that the statements use: the ranges and the laws
that the spec states of its collections, the state between events, and what an event leaves when it ends. -/

namespace Sys2Proof.Machine

/-! ### Between events (R32, R34, R71, R90, R97, R151, R167) -/

/-- A response standing on DOWN is a held one: its source's oldest response-due entry is ISSUED (R90, R92). -/
def State.responseHeld (s : State) : Prop :=
  ∀ r, s.downResp = some r → ∃ m, s.oldestDue r.source = some m ∧ m.state = .issued

/-- No shortfall of credit stands unreported: a stream found short in the case of a head has its marker set (R71). -/
def State.shortfallsNoted (s : State) : Prop := ∀ n, s.headShort n = true → (s.stream n).noted = true

/-- What lacks for the offered request is what is noted to lack (R34, R36). -/
def State.stallNoted (s : State) : Prop := s.up.lacking = s.stall

/-- No presentation is due: one takes place at every event after which the port is IDLE, the hold clear and the queue
not empty (R151). -/
def Notices.Presented (nt : Notices) : Prop := nt.port = .idle → nt.hold = false → nt.queue = []

/-- Every judgement that the spec makes at each event has been made, and a presentation that was due has taken place. -/
structure State.Noted (s : State) : Prop where
  response : s.responseHeld
  shortfalls : s.shortfallsNoted
  stall : s.stallNoted
  presented : s.nt.Presented

/-- An offer stands on UP only in DRAINING or while a resource lacks for it: any other was taken at the first event
after which R32 let it be taken. -/
def State.offerWaits (s : State) : Prop :=
  ∀ r, s.up.offer = some r → s.dev.mode = .draining ∨ s.lacks r ≠ Lacking.none

/-- Everything that the completion of a warm reset waits for holds: no order entry is QUEUED, ISSUED or LOCAL, and both
stages are empty (R167). -/
def State.drainOver (s : State) : Prop :=
  (∀ e ∈ s.order, e.state = .abandoned) ∧ s.issue.stage = none ∧ s.answer.stage = none

/-- The mode is DRAINING only while the drain is not over: the warm reset completed at the first event of the drain after
which it was (R167). -/
def State.drainWaits (s : State) : Prop := s.dev.mode = .draining → ¬ s.drainOver

/-- The answer stage is empty only while no answer is ready for it: a fill follows every event after which one is
(R97). -/
def State.answersWait (s : State) : Prop := s.answer.stage = none → s.answerable = none ∧ s.localChoice = none

/-- The state that an event leaves: every judgement has been made, and the fill, the take and the completion that were
due have taken place. -/
structure State.Settled (s : State) : Prop where
  noted : s.Noted
  offer : s.offerWaits
  drain : s.drainWaits
  answers : s.answersWait

/-- Cold reset is not in force and the last event has ended. -/
structure State.Ready (s : State) : Prop where
  released : s.inReset = false
  settled : s.Settled

/-- A warm reset has started with nothing to wait for, and its completion, which follows at once, has not taken place: the
state in which a second request that came together with the first finds DRAINING (R161, R167, log 31). -/
structure State.Begun (s : State) : Prop where
  released : s.inReset = false
  noted : s.Noted
  mode : s.dev.mode = .draining
  ended : s.drainOver

/-- A row that may request a warm reset: the edge on WRSTn, the command, and a word of the command register that spells
it (R161). -/
def AsksReset (c : Instr) : Prop :=
  c = .wrstnFall ∨ c = .warmReset ∨ (∃ v, c = .registerWrite commandAddr v ∧ decodeCommand v = .warmReset) ∨
    (∃ v, c = .unknownCommand v ∧ decodeCommand v = .warmReset)

/-- The CREDIT occurrences of the shortfalls that a state shows and has not noted (R71). -/
def State.creditNotices (u : State) : List NoticeJob :=
  ((List.finRange 16).filter u.newlyShort).map (fun n => .occur { source := streamSource n, cause := .credit })

/-- The STALL occurrences of the resources that a state lacks and has not noted (R34). -/
def State.stallNotices (u : State) : List NoticeJob :=
  (if u.stall.order && !u.up.lacking.order then [.occur { source := 20, cause := .orderLack }] else []) ++
    (if u.stall.store && !u.up.lacking.store then [.occur { source := 20, cause := .storeLack }] else []) ++
    (if u.stall.data && !u.up.lacking.data then [.occur { source := 20, cause := .dataLack }] else [])

/-- The notice unit goes from nt to nt' by taking these jobs, each once, in some order (R139, R141), with the
presentations that are due on the way and at the end (R151). -/
def Notices.Takes (nt : Notices) (jobs : List NoticeJob) (nt' : Notices) : Prop :=
  ∃ l : List NoticeJob, l.Perm jobs ∧ nt' = nt.runAll l

/-- An event whose own effect is u and whose own occurrences are jobs ends in t: the credit-noted markers follow R71,
the noted stall follows R34, the notice unit takes the event's own occurrences and those of the two judgements, and
nothing else differs from u but the count of free choices. -/
structure Judged (u : State) (jobs : List NoticeJob) (t : State) : Prop where
  kept : t = { u with streams := t.streams, up := t.up, nt := t.nt, freeCount := t.freeCount }
  markers : ∀ n, t.stream n = { u.stream n with noted := (u.stream n).noted || u.headShort n }
  offer : t.up = { u.up with lacking := u.stall }
  notices : u.nt.Takes (jobs ++ u.creditNotices ++ u.stallNotices) t.nt

/-- An event whose own effect is u and whose own occurrences are jobs ends in t, with what it brings about at once: it
fills an empty answer stage where an answer is ready (the effects: Obligations.MemoryAnswerFillsTheStage and
LocalAnswerFillsTheStage), completes the warm reset where the drain is then over (Obligations.WarmResetCompletes), takes
the waiting offer where R32 then lets it (Obligations.TakeOfARefusedRequest and TakeOfAKeptRequest), and fills the stage
where the take has made an answer ready. Where none of them is due this is Judged. -/
def Ends (u : State) (jobs : List NoticeJob) (t : State) : Prop :=
  let e := Ev.brings { st := u, jobs := jobs }
  Judged e.st e.jobs t

/-! ### Ranges (R1, R14, R24, R120) -/

/-- Every valid match list entry has its page base at most its page limit (R1). -/
def State.pagesOrdered (s : State) : Prop :=
  ∀ i, (cell s.matchList i).valid = true →
    (cell s.matchList i).rule.pageBase ≤ (cell s.matchList i).rule.pageLimit

/-- Every number of the parameter set lies in its range (R14). -/
structure Params.InRange (p : Params) : Prop where
  windowStart : p.windowStart ≤ 65535
  windowEnd : p.windowEnd ≤ 65535
  reload : p.reload ≤ Config.maxCredit
  cap : p.cap ≤ Config.maxCredit
  holdLimit : p.holdLimit ≤ 96
  issueLimit : p.issueLimit ≤ 32
  ageLimit : p.ageLimit ≤ 65535

/-- Both sets and the credit lie in their ranges (R14, R24). -/
structure Stream.InRange (st : Stream) : Prop where
  live : st.live.InRange
  pend : st.pend.InRange
  credit : st.credit ≤ Config.maxCredit

/-- Every stream record lies in its ranges (R14, R24). -/
def State.streamsInRange (s : State) : Prop := ∀ n, (s.stream n).InRange

/-- While pending-valid is clear the pending set is a copy of the live set (R16). -/
def State.pendingCopies (s : State) : Prop :=
  ∀ n, (s.stream n).pendingValid = false → (s.stream n).pend = (s.stream n).live

/-- The numbers of a timer lie in their ranges, the count below the frame length (R120). -/
structure Timer.InRange (t : Timer) : Prop where
  count : t.count < t.frameLength
  frameLength : t.frameLength ≤ 65535
  pendingAbove : 1 ≤ t.pendingLength
  pendingBelow : t.pendingLength ≤ 65535

/-- Every timer lies in its ranges, and timer 0 is not cascaded (R120, R122). -/
structure State.TimersInRange (s : State) : Prop where
  timers : ∀ t, (s.timer t).InRange
  first : (s.timer 0).clock ≠ .cascade

/-! ### Notice unit and handshake (R139, R148) -/

/-- A set of causes holds causes of source x alone (R139, R140). -/
def ofSource (x : NoticeId) (cs : CauseSet) : Prop := cs &&& ~~~causeMask x = 0

/-- The law of the handshake queue (R148): at most 8 entries, never two for one source, each with a non-empty recorded
set of its source's causes, and the port PRESENTING only while the queue is not empty; with it, every cause set holds
causes of its source alone (R140), and the presentation hold is set in IDLE alone (R151, R154). -/
structure Notices.Lawful (nt : Notices) : Prop where
  length : nt.queue.length ≤ Config.handshakeCapacity
  distinct : (nt.queue.map (fun e => e.source)).Nodup
  recorded : ∀ e ∈ nt.queue, e.causes ≠ 0 ∧ ofSource e.source e.causes
  presenting : nt.port = .presenting → nt.queue ≠ []
  held : nt.hold = true → nt.port = .idle
  causes : ∀ x, ofSource x (cell nt.sources x).causes

/-! ### Store, order table, buffer (R46, R27, R50, R85, R88, R111) -/

/-- The pools do not exceed their capacities (R46, R50, R85). -/
structure State.WithinCapacity (s : State) : Prop where
  store : s.store.length ≤ Config.storeCapacity
  order : s.order.length ≤ Config.orderCapacity
  buffer : s.bufferUsed ≤ Config.bufferBeats

/-- What an order entry and a store record of one request share: its drawing number, source, stream, kind, beats. -/
structure Shared where
  draw : Nat
  source : Source
  stream : Option StreamId
  kind : Kind
  beats : Nat
  deriving DecidableEq, Repr

/-- What a store record shares with its order entry. -/
def StoreRec.shared (r : StoreRec) : Shared :=
  { draw := r.draw, source := r.source, stream := some r.stream, kind := r.kind, beats := r.beats }

/-- What an order entry shares with its store record. -/
def OrderEntry.shared (e : OrderEntry) : Shared :=
  { draw := e.draw, source := e.source, stream := e.stream, kind := e.kind, beats := e.beats }

/-- The entries in state QUEUED. -/
def State.queuedEntries (s : State) : List OrderEntry := s.order.filter (fun e => e.state == .queued)

/-- Store records and QUEUED order entries correspond one to one (R46); both lists are in take order, and every
drawing number was drawn (R37, R88). -/
structure State.StoreMatches (s : State) : Prop where
  correspond : s.store.map StoreRec.shared = s.queuedEntries.map OrderEntry.shared
  rising : s.order.Pairwise (fun a b => a.draw < b.draw)
  drawn : ∀ e ∈ s.order, e.draw < s.up.draws

/-- Each stream's issue count is the number of its ISSUED entries (R27). -/
def State.issueCountsExact (s : State) : Prop := ∀ n, (s.stream n).issueCount = issuedOf s.order n

/-- The beats of a WRITE record, 0 for a READ (R50). -/
def StoreRec.writeBeats (r : StoreRec) : Nat := if r.kind = .write then r.beats else 0

/-- The beats of a WRITE in the issue stage (R50). -/
def State.stageBeats (s : State) : Nat :=
  match s.issue.stage with
  | some q => if q.kind = .write then q.beats else 0
  | none => 0

/-- The write data beats in use are those of the WRITE store records and of a WRITE in the issue stage (R50). -/
def State.bufferExact (s : State) : Prop := s.bufferUsed = (s.store.map StoreRec.writeBeats).sum + s.stageBeats

/-- What a WRITE record holds in the buffer: its reference and its beats. -/
def StoreRec.share (r : StoreRec) : Option (Nat × Nat) := r.writeRef.map (fun k => (k, r.beats))

/-- What a WRITE in the issue stage holds in the buffer. -/
def State.stageShare (s : State) : List (Nat × Nat) :=
  match s.issue.stage with
  | some q => (q.writeRef.map (fun k => (k, q.beats))).toList
  | none => []

/-- The allocations of the buffer are those of the WRITE records and of a WRITE in the issue stage, each of its
request's beats; a WRITE has a reference of its own and a READ none (R43, R50, R73). -/
structure State.BufferMatches (s : State) : Prop where
  shares : (s.wdb.map (fun a => (a.key, a.data.length))).Perm (s.stageShare ++ s.store.filterMap StoreRec.share)
  records : ∀ r ∈ s.store, r.writeRef = if r.kind = .write then some r.draw else none
  staged : ∀ q, s.issue.stage = some q → (q.writeRef = none ↔ q.kind = .read)
  fresh : ∀ p ∈ s.stageShare, p.1 < s.up.draws ∧ ∀ r ∈ s.store, r.draw ≠ p.1

/-- In every source list ABANDONED entries stand before all others, and ISSUED entries before QUEUED ones (R88). -/
def State.listsOrdered (s : State) : Prop :=
  s.order.Pairwise (fun a b => a.source = b.source →
    (b.state = .abandoned → a.state = .abandoned) ∧ (b.state = .issued → a.state ≠ .queued))

/-- Every record ahead of an urgent record in its queue, and every earlier record of its source, is urgent (R111). -/
def State.urgencyClosed (s : State) : Prop :=
  s.store.Pairwise (fun a b => (a.stream = b.stream ∨ a.source = b.source) → b.urgent = true → a.urgent = true)

/-- A record whose remaining age is 0 has expired under FORCE and is urgent (R107, R110). -/
def State.expiredUrgent (s : State) : Prop := ∀ r ∈ s.store, r.age = some 0 → r.urgent = true

/-! ### Modes and resets (R54, R165, R170) -/

/-- In DRAINING the store holds no record (R54, R116); the drain timer runs in DRAINING alone and holds at most
65535 (R165). -/
structure State.DrainLawful (s : State) : Prop where
  store : s.dev.mode = .draining → s.store = []
  runs : s.dev.drainRunning = true → s.dev.mode = .draining
  timer : s.dev.drainTimer ≤ 65535

/-- While cold reset is in force every block holds its cold values; only the partners' lines on the two channels that
the part receives on and on CSn, and the model's own queue and count, are not the part's (R170, R179, R180). -/
def State.heldCold (s : State) : Prop :=
  s.inReset = true →
    s = { State.reset with
          pending := s.pending, inReset := true, freeCount := s.freeCount, downResp := s.downResp
          up := { State.reset.up with offer := s.up.offer }
          mgmt := { State.reset.mgmt with selected := s.mgmt.selected } }

/-! ### What the statements about commands speak of -/

/-- The command brings request r to its take (R32): an offer of it in a state that an event leaves, or the take of r
where r stands on UP in any state outside cold reset whose judgements have been made and in which no fill is due. An
offer made under a standing VALID is among them (log 9). -/
def State.Brings (s : State) (c : Instr) (r : Request) : Prop :=
  (c = .requestOffer r ∧ s.Ready) ∨
    (c = .requestTake ∧ s.up.offer = some r ∧ s.inReset = false ∧ s.Noted ∧ s.answersWait)

/-- The UP port after a take: the channel is free and a sequence number is drawn (R37, R172). -/
def UpPort.taken (u : UpPort) : UpPort :=
  { offer := none, lacking := Lacking.none, seq := u.seq + 1, draws := u.draws + 1 }

/-- The record is in the urgency closure of the seeds over a store (R110): it is a seed, or it stands ahead of a
member in that member's queue, or it is an earlier record of a member's source. -/
inductive InClosure (store : List StoreRec) (seed : StoreRec → Prop) : StoreRec → Prop where
  | seed (r : StoreRec) : r ∈ store → seed r → InClosure store seed r
  | ahead (r y : StoreRec) : r ∈ store → InClosure store seed y → r.draw < y.draw →
      (r.stream = y.stream ∨ r.source = y.source) → InClosure store seed r

/-- What one event does at one timer: nothing, one count more, or a frame start from a cause (R124, R125, R132). -/
inductive TimerHit where
  | none
  | count
  | frame (cause : FrameCause)
  deriving DecidableEq, Repr

/-- What a tick does at a timer (R124). -/
def Timer.tickHit (x : Timer) : TimerHit :=
  if x.state ≠ .running then .none else if x.count + 1 = x.frameLength then .frame .tick else .count

/-- What a rising edge of a cycle input does at a timer (R122, R125). -/
def Timer.edgeHit (x : Timer) (pin : CyclePin) : TimerHit :=
  if x.sync = (match pin with | .cycle0 => .sync0 | .cycle1 => .sync1) then
    if x.state = .stopped then .none else .frame .syncEdge
  else if x.clock = (match pin with | .cycle0 => .cycle0 | .cycle1 => .cycle1) then x.tickHit
  else .none

/-- A timer after what an event does at it (R124, R125, R127, R132). -/
def Timer.hit (x : Timer) : TimerHit → Timer
  | .none => x
  | .count => { x with count := x.count + 1 }
  | .frame cause =>
    { x with
      state := if cause = .syncEdge then .running else x.state
      count := 0
      frameLength := if x.pendingValid then x.pendingLength else x.frameLength
      pendingValid := false }

/-- The timer one below t, if there is one. -/
def below (t : TimerId) : Option TimerId := if h : 0 < t.val then some ⟨t.val - 1, by omega⟩ else none

/-- Timer t is cascaded and the timer below it has a frame start from a tick or a sync edge (R129). -/
def State.cascadeMade (s : State) (hit : TimerId → TimerHit) (t : TimerId) : Bool :=
  match below t with
  | none => false
  | some u => (s.timer t).clock == .cascade && (hit u == .frame .tick || hit u == .frame .syncEdge)

/-- The state after what one event does at each timer: the timers, a delivery to every stream from each frame start
in timer order, a cascade tick for each cascaded timer above a frame start that makes one (R127, R128, R129). -/
def State.timersHit (s : State) (hit : TimerId → TimerHit) : State :=
  { s with
    timers := mapAll s.timers (fun t x => x.hit (hit t))
    deliveries := s.deliveries ++ (List.finRange 4).flatMap (fun t =>
      match hit t with
      | .frame _ => (List.finRange 16).map (fun n => (t, n))
      | .none => []
      | .count => [])
    cascades := mapAll s.cascades (fun t k => if s.cascadeMade hit t then k + 1 else k) }

/-- The occurrences that one event raises at the timers (R124, R127). -/
def State.hitNotices (s : State) (hit : TimerId → TimerHit) : List NoticeJob :=
  (List.finRange 4).flatMap (fun t =>
    match hit t with
    | .frame cause =>
      .occur { source := timerSource t, cause := .wrap } ::
        (if cause = .tick ∧ (s.timer t).sync ≠ .free then [.occur { source := timerSource t, cause := .syncMissed }] else [])
    | .none => []
    | .count => [])

/-- The greatest number that a parameter takes (R14, 12.3). -/
def paramMost : Param → Nat
  | .policy => 2
  | .timer => 3
  | .windowStart => 65535
  | .windowEnd => 65535
  | .reload => 16383
  | .creditMode => 1
  | .cap => 16383
  | .holdLimit => 96
  | .issueLimit => 32
  | .ageLimit => 65535
  | .ageAction => 1
  | .priority => 7

/-- The greatest number that a staging field takes (R7, 12.3). -/
def stagingMost : StagingField → Nat
  | .sourceValue => 63
  | .sourceMask => 63
  | .kindFilter => 2
  | .pageBase => 268435455
  | .pageLimit => 268435455
  | .stream => 15

/-- The greatest number that a notice setting takes (R140, 12.3). -/
def settingMost : NoticeSetting → Nat
  | .enable _ => 1
  | .level _ => 7
  | .route _ => 1
  | .notifyAfter _ => 1
  | .threshold => 7
  | .clearStyle => 1

/-- The number that a notice setting reads as (12.3). -/
def Notices.setting (nt : Notices) : NoticeSetting → Nat
  | .enable x => flagCode (cell nt.sources x).enable
  | .level x => (cell nt.sources x).level.val
  | .route x => (cell nt.sources x).route.code
  | .notifyAfter x => flagCode (cell nt.sources x).notifyAfter
  | .threshold => nt.threshold.val
  | .clearStyle => nt.clearStyle.code

/-- The management port after a word at an address: the frame's address increases by 1, wrapping (R182). -/
def Mgmt.moved (m : Mgmt) (a : WordAddr) : Mgmt := { m with frame := .writing (a + 1) }

/-- The management port after a word at an address that records an error (R182, R185, R186). -/
def Mgmt.failed (m : Mgmt) (a : WordAddr) (e : MgmtError) : Mgmt :=
  { m with lastError := e, frame := .writing (a + 1) }

/-- The management port after a command word: its result, and the error that the result records (R187). -/
def Mgmt.resulted (m : Mgmt) (r : CmdResult) : Mgmt :=
  { m with
    cmdResult := r
    lastError := match r with
      | .accepted => m.lastError
      | .refusedBusy => .busy
      | .refusedArg => .arg
    frame := .writing (commandAddr + 1) }

/-- The next word goes to this address: cold reset is not in force, the state is settled, and a WRITE frame stands at
the address (R182). -/
structure State.TakesWord (s : State) (a : WordAddr) : Prop where
  ready : s.Ready
  stands : s.mgmt.frame = .writing a

/-- The word address to which the word of a row goes, for the rows that are a word of a WRITE frame (R182, R186,
R187). -/
def wordTarget : Instr → Option WordAddr
  | .stagingWrite f _ => some (Reg.staging f).addr
  | .pendingWrite n p _ => some (Reg.pending n p).addr
  | .frameLengthWrite t _ => some (Reg.frameLength t).addr
  | .clockSourceWrite t _ => some (Reg.clockSource t).addr
  | .syncModeWrite t _ => some (Reg.syncMode t).addr
  | .winSelectWrite w _ => some (Reg.winSelect w).addr
  | .noticeConfigWrite f _ => some f.addr
  | .causeClear x _ => some (Reg.cause x).addr
  | .causeWriteDirect x _ => some (Reg.cause x).addr
  | .handshakeLimitWrite _ => some Reg.handshakeLimit.addr
  | .ageTapWrite _ => some Reg.ageTap.addr
  | .drainLimitWrite _ => some Reg.drainLimit.addr
  | .registerWrite a _ => some a
  | .install _ | .remove _ | .applyNow _ | .discardPending _ | .streamOn _ | .streamOff _ | .start _ | .stop _
  | .restart _ | .startRestart _ | .setMode _ | .warmReset | .snapshot _ _ | .unknownCommand _
  | .timerCmdUnknownOperation _ _ => some commandAddr
  | .requestOffer _ | .offerWithdrawn _ | .requestTake | .grant | .issueTake | .responseOffer _ | .answerFill
  | .answerTake | .tapTick _ | .cycleEdge _ | .frameStart _ _ | .frameStartDelivery _ _ | .cascadeTick _ | .ageTick
  | .forceExpiry _ | .dropExpiry _ | .presentation | .evackRise | .evackFall | .handshakeTimeout | .wrstnFall
  | .drainTimeout | .warmResetCompletion | .coldReset | .coldResetRelease | .spiFrameStart | .unknownOperation _
  | .spiFrameEnd _ | .unmappedRead _ => none

/-! ### REFCLK periods and their ticks (R106, R107, R109, R119, R165) -/

/-- Tap k ticks in the REFCLK period that brings the divider to n: 2^k divides n (R119). -/
abbrev tapDue (n : BitVec 15) (k : Tap) : Prop := 2 ^ k.val ∣ n.toNat

/-- A tick of tap k of the present REFCLK period is made for timer t, whose clock source the tap is, and not yet taken
(R119, R122, log 6). -/
abbrev State.tickOwed (s : State) (k : Tap) (t : TimerId) : Prop :=
  cell s.timerTicks t = true ∧ (s.timer t).clock = .tap k ∧ tapDue s.timebase k

/-- The age tick of the present REFCLK period is made and not yet taken (R106, R119, log 6). -/
abbrev State.ageOwed (s : State) : Prop := s.ageDue = true ∧ tapDue s.timebase s.ageTap

/-- Every tick of the present REFCLK period is taken. -/
abbrev State.quiet (s : State) : Prop := (∀ k t, ¬ s.tickOwed k t) ∧ ¬ s.ageOwed

/-- What a tick of tap k does at timer t: a tick where it is made for the timer (R119, R122). -/
def State.tapHit (s : State) (k : Tap) (t : TimerId) : TimerHit :=
  if s.tickOwed k t then (s.timer t).tickHit else .none

/-- The state after the tick of tap k at the timers for which it is made. -/
def State.ticked (s : State) (k : Tap) : State :=
  { s.timersHit (s.tapHit k) with
    timerTicks := mapAll s.timerTicks (fun t made => made && !decide (s.tickOwed k t)) }

/-- The state in which the REFCLK period that follows s begins: the divider moves on, and a tick is made for every timer
clocked by a tap that ticks in the period, and an age tick where the age tap ticks in it (R106, R119, R122). -/
def State.nextPeriod (s : State) : State :=
  { s with
    timebase := s.timebase + 1
    timerTicks := mapAll s.timerTicks (fun t _ =>
      decide (∃ k, (s.timer t).clock = .tap k ∧ tapDue (s.timebase + 1) k))
    ageDue := decide (tapDue (s.timebase + 1) s.ageTap) }

/-- The age tick that the row AGE_TICK is in s is taken in p: that of the present period, or that of the next one, which
then begins. -/
abbrev State.AgeTickFrom (s p : State) : Prop :=
  (s.ageOwed ∧ p = s) ∨ (s.quiet ∧ tapDue (s.timebase + 1) s.ageTap ∧ p = s.nextPeriod)

/-- The row begins a REFCLK period: a tick of a tap, or the age tick, that is not one of the present period's untaken ones
and falls in the next (log 6). -/
def State.beginsPeriod (s : State) (c : Instr) : Prop :=
  (∃ k, c = .tapTick k ∧ (∀ t, ¬ s.tickOwed k t) ∧ tapDue (s.timebase + 1) k) ∨
    (c = .ageTick ∧ ¬ s.ageOwed ∧ tapDue (s.timebase + 1) s.ageTap)

/-- u with the divider and the timers' ticks of p, and with the age tick of the period taken. -/
def State.ageTaken (p u : State) : State :=
  { u with timebase := p.timebase, timerTicks := p.timerTicks, ageDue := false }

/-- The record leaves the store at an age tick: it is at its last tick and its stream drops (R113). -/
def State.drops (s : State) (r : StoreRec) : Bool :=
  decide (r.age = some 1 ∧ (s.stream r.stream).live.ageAction = .drop)

/-- The records that an age tick leaves in the store. -/
def State.keptRecords (s : State) : List StoreRec := s.store.filter (fun r => !s.drops r)

/-- An age tick at the records: those under DROP leave, their entries LOCAL EXPIRED and their beats freed; every other
present age above 0 falls by 1, and the records that marks picks become urgent; every expiry is counted (R107, R109,
R110, R113). -/
def State.aged (s : State) (marks : StoreRec → Bool) : State :=
  let gone := s.store.filter s.drops
  let expired := s.store.filter (fun r => decide (r.age = some 1))
  { s with
    store := s.keptRecords.map (fun r => { r with age := r.age.map (· - 1), urgent := r.urgent || marks r })
    order := s.order.map (fun e =>
      if e.state = .queued ∧ ∃ r ∈ gone, r.draw = e.draw then { e with state := .made .expired false } else e)
    wdb := s.wdb.filter (fun a => decide (∀ r ∈ gone, r.writeRef ≠ some a.key))
    streams := mapAll s.streams (fun n st =>
      { st with
        counters :=
          { st.counters with
            expiredRequests := st.counters.expiredRequests +
              BitVec.ofNat 32 (expired.filter (fun r => r.stream = n)).length } }) }

/-- The EXPIRED occurrences of an age tick, one for each expiry (R115). -/
def State.agedNotices (s : State) : List NoticeJob :=
  (s.store.filter (fun r => decide (r.age = some 1))).map
    (fun r => .occur { source := streamSource r.stream, cause := .expired })

/-- What the drain timer holds after an age tick (R165). -/
def DeviceControl.timerUp (d : DeviceControl) : Nat := min 65535 (d.drainTimer + 1)

/-- The next age tick is the drain timeout: the timer runs in DRAINING and reaches a limit of 1 or more (R165). -/
def DeviceControl.timesOut (d : DeviceControl) : Prop :=
  d.mode = .draining ∧ d.drainRunning = true ∧ 1 ≤ d.drainLimit ∧ d.drainLimit ≤ d.timerUp

/-- The drain timeout: the timer stops, every ISSUED entry becomes LOCAL ABORTED with the ghost mark set, and the issue
counts fall by the entries so changed (R166). -/
def State.ghosted (s : State) : State :=
  { s with
    dev := { s.dev with drainRunning := false, drainTimer := s.dev.timerUp }
    order := s.order.map (fun e => if e.state = .issued then { e with state := .made .aborted true } else e)
    streams := mapAll s.streams (fun n st =>
      { st with issueCount := st.issueCount -
          (s.order.filter (fun e => decide (e.stream = some n ∧ e.state = .issued))).length }) }

/-- The drain timeout with what becomes of a response held on DOWN: it is discarded into its entry, now a ghost, whose
mark clears (R94, R166). -/
def State.timedOut (s : State) : State :=
  match s.downResp with
  | none => s.ghosted
  | some r =>
    match s.oldestDue r.source with
    | none => s.ghosted
    | some m =>
      { s.ghosted with
        downResp := none
        order := s.ghosted.order.map (fun e =>
          if e.draw = m.draw then { e with state := .made .aborted false } else e) }

end Sys2Proof.Machine
end

