-- ==== Sys2Proof/Certificates/Slice0/Obligations.lean ====
section
/-! DEFINITION. The statements about the J416, one def each, from the numbered rules of spec/. -/

open Sys2Proof Sys2Proof.Machine

/-! ### The block -/

/-- The command at the front of the queue is the one that a step runs, on the state with the rest of the queue. -/
def Obligations.StepTakesTheFrontCommand : Prop :=
  ∀ (s : State) (c : Instr) (rest : List Instr),
    s.pending = c :: rest → step s = exec c { s with pending := rest }

/-- The model's choice (log 2): on an empty queue a step runs one of the block's own due events, and idles when none
is due. Due are the take of a waiting offer, a grant, a fill, a presentation, a completion, a delivery, a cascade tick,
and the ticks of the present REFCLK period that are not yet taken, each where its condition holds. -/
def Obligations.EmptyQueueRunsADueEvent : Prop :=
  ∀ s : State, s.pending = [] →
    (s.dueEvents = [] → step s = .next s) ∧
    (s.dueEvents ≠ [] → ∃ c ∈ s.dueEvents, ∃ k ≤ 1, step s = exec c { s with freeCount := s.freeCount + k }) ∧
    (∀ c, c ∈ s.dueEvents ↔ s.inReset = false ∧
      ((c = .requestTake ∧ ∃ r, s.up.offer = some r ∧ s.dev.mode ≠ .draining ∧ s.lacks r = Lacking.none) ∨
       (c = .grant ∧ s.issue.stage = none ∧ s.grantChoice ≠ none) ∨
       (c = .answerFill ∧ s.answer.stage = none ∧ (s.answerable ≠ none ∨ s.localChoice ≠ none)) ∨
       (c = .presentation ∧ s.nt.port = .idle ∧ s.nt.hold = false ∧ s.nt.queue ≠ []) ∨
       (c = .warmResetCompletion ∧ s.dev.mode = .draining ∧ (∀ e ∈ s.order, e.state = .abandoned) ∧
         s.issue.stage = none ∧ s.answer.stage = none) ∨
       (∃ t n, c = .frameStartDelivery t n ∧ (t, n) ∈ s.deliveries) ∨
       (∃ t, c = .cascadeTick t ∧ 0 < cell s.cascades t) ∨
       (∃ k t, c = .tapTick k ∧ s.tickOwed k t) ∨
       (c = .ageTick ∧ s.ageOwed)))

/-- The values that the spec gives for cold reset. -/
def Obligations.ResetLeavesTheColdValues : Prop :=
  let s := State.reset
  (∀ i, cell s.matchList i =
    { valid := false, rule := { sourceValue := 0, sourceMask := 0, kind := .any, pageBase := 0, pageLimit := 0, stream := 0 } }) ∧
  s.staging = { sourceValue := 0, sourceMask := 0, kind := .any, pageBase := 0, pageLimit := 0, stream := 0 } ∧
  (∀ n, (s.stream n).live =
    { policy := .hold, timer := 0, windowStart := 0, windowEnd := 65535, reload := 0, creditMode := .reset,
      cap := 16383, holdLimit := 96, issueLimit := 32, ageLimit := 0, ageAction := .force, priority := 0 }) ∧
  (∀ n, (s.stream n).pend = (s.stream n).live ∧ (s.stream n).pendingValid = false ∧ (s.stream n).mode = .off ∧
    (s.stream n).credit = 0 ∧ (s.stream n).issueCount = 0 ∧ (s.stream n).noted = false ∧
    (s.stream n).counters =
      { issuedRequests := 0, issuedBeats := 0, excessBeats := 0, waitedRequests := 0, refusedRequests := 0,
        expiredRequests := 0, memoryErrors := 0 }) ∧
  s.store = [] ∧ s.wdb = [] ∧ s.order = [] ∧ s.up.seq = 0 ∧ s.up.offer = none ∧ s.downResp = none ∧
  s.answer = { stage := none, ptr := 63 } ∧ s.issue.stage = none ∧ (∀ L, cell s.issue.ptr L = 15) ∧ s.ageTap = 10 ∧
  s.timebase = 0 ∧
  (∀ t, s.timer t =
    { state := .stopped, count := 0, frameLength := 65535, pendingLength := 65535, pendingValid := false,
      clock := .tap 0, sync := .free }) ∧
  (∀ w, cell s.winSelect w = none ∧ s.winPin w = false) ∧
  (∀ x, cell s.nt.sources x = { causes := 0, enable := false, level := 0, route := .interrupt, notifyAfter := false }) ∧
  s.nt.threshold = 0 ∧ s.nt.clearStyle = .oneClears ∧ s.nt.queue = [] ∧ s.nt.port = .idle ∧ s.nt.hold = false ∧
  s.nt.limit = 1000 ∧ s.nt.irq = false ∧ s.nt.urg = false ∧ s.nt.evreq = false ∧ s.nt.evcode = 0 ∧
  s.dev.mode = .bypass ∧ s.dev.drainRunning = false ∧ s.dev.drainLimit = 4096 ∧
  s.mgmt.lastError = .none ∧ s.mgmt.cmdResult = .accepted ∧ s.mgmt.frame = .none ∧ s.mgmt.snapshot.valid = false ∧
  (∀ o ≤ 10, s.mgmt.snapshot.word o = some 0)

/-! ### Classification (01) -/

/-- The source test: agreement in every bit position where the mask has a 1, and nowhere else. -/
def Obligations.SourceTestComparesMaskedBits : Prop :=
  ∀ (m : MatchRule) (S : Source),
    m.sourceTest S = true ↔ ∀ i < 6, m.sourceMask.getLsbD i = true → S.getLsbD i = m.sourceValue.getLsbD i

/-- The kind test and the page test; the page number alone is looked at. -/
def Obligations.KindAndPageTests : Prop :=
  (∀ (f : KindFilter) (k : Kind),
    f.test k = true ↔ f = .any ∨ (f = .read ∧ k = .read) ∨ (f = .write ∧ k = .write)) ∧
  (∀ (m : MatchRule) (r : Request),
    m.pageTest r.page = true ↔
      m.pageBase.toNat ≤ r.address.toNat / 4096 ∧ r.address.toNat / 4096 ≤ m.pageLimit.toNat) ∧
  (∀ (m : MatchRule) (r : Request), m.pageBase = 0 → m.pageLimit = 268435455 → m.pageTest r.page = true) ∧
  (∀ (m : MatchRule) (r : Request), m.pageBase = m.pageLimit →
    (m.pageTest r.page = true ↔ r.address.toNat / 4096 = m.pageBase.toNat)) ∧
  (∀ (m : MatchRule) (r r' : Request), r.address.toNat / 4096 = r'.address.toNat / 4096 →
    m.pageTest r.page = m.pageTest r'.page)

/-- The first valid entry, in index order, whose three tests pass names the stream; with none it is stream 0. -/
def Obligations.FirstMatchNamesTheStream : Prop :=
  ∀ (s : State) (r : Request),
    let hits (i : Fin 32) : Prop :=
      (cell s.matchList i).valid = true ∧ (cell s.matchList i).rule.sourceTest r.source = true ∧
      (cell s.matchList i).rule.kind.test r.kind = true ∧ (cell s.matchList i).rule.pageTest r.page = true
    (∀ i, hits i → (∀ j < i, ¬ hits j) → s.classify r = (cell s.matchList i).rule.stream) ∧
    ((∀ i, ¬ hits i) → s.classify r = 0)

/-! ### Windows, eligibility, arbitration (04, 05) -/

/-- A window is open when its bound timer is not ARMED and the count lies from the window start to below the lesser of
window end and frame length; so a window whose start is not below that lesser value never opens, and a window is
closed while its timer is ARMED. -/
def Obligations.WindowIsOpen : Prop :=
  ∀ (s : State) (n : StreamId),
    let p := (s.stream n).live
    let t := s.timer p.timer
    (s.windowOpen n = true ↔
      t.state ≠ .armed ∧ p.windowStart ≤ t.count ∧ t.count < min p.windowEnd t.frameLength) ∧
    (min p.windowEnd t.frameLength ≤ p.windowStart → s.windowOpen n = false)

/-- Eligibility of a store record, in terms of the other records: it is the oldest record of its stream and of its
source, and it is urgent, or its stream is unregulated, or it has an issue slot and PASS or an open window and the
credit. -/
def Obligations.EligibilityTest : Prop :=
  ∀ (s : State) (r : StoreRec), s.StoreMatches → r ∈ s.store →
    (s.eligible r = true ↔
      (∀ x ∈ s.store, x.stream = r.stream → r.draw ≤ x.draw) ∧
      (∀ x ∈ s.store, x.source = r.source → r.draw ≤ x.draw) ∧
      (r.urgent = true ∨
       ¬ ((s.stream r.stream).mode = .on ∧ s.dev.mode = .regulate) ∨
       ((s.stream r.stream).issueCount < (s.stream r.stream).live.issueLimit ∧
        ((s.stream r.stream).live.policy = .pass ∨
         (s.windowOpen r.stream = true ∧ r.beats ≤ (s.stream r.stream).credit)))))

/-- Whenever the store is not empty, some queue head satisfies the order condition; two candidates are never of one
source. -/
def Obligations.SomeHeadMeetsTheOrderCondition : Prop :=
  ∀ s : State, s.StoreMatches →
    (s.store ≠ [] → ∃ r ∈ s.store, s.isHead r = true ∧ s.orderOk r = true) ∧
    (∀ r ∈ s.store, ∀ x ∈ s.store, s.eligible r = true → s.eligible x = true → r.source = x.source → r = x)

/-- The arbiter's choice: an urgent candidate drawn before every other urgent one; with none, a candidate of the
highest level that any candidate has, its stream the first after that level's pointer that has one there. With no
candidate there is no choice. -/
def Obligations.ArbiterChoice : Prop :=
  ∀ s : State, s.StoreMatches →
    (∀ r, s.grantChoice = some r → r ∈ s.store ∧ s.eligible r = true ∧
      ((r.urgent = true ∧ ∀ x ∈ s.store, s.eligible x = true → x.urgent = true → r.draw ≤ x.draw) ∨
       ((∀ x ∈ s.store, s.eligible x = true → x.urgent = false) ∧
        ∀ x ∈ s.store, s.eligible x = true →
          (s.stream x.stream).live.priority < (s.stream r.stream).live.priority ∨
          ((s.stream x.stream).live.priority = (s.stream r.stream).live.priority ∧
           let p := cell s.issue.ptr (s.stream r.stream).live.priority
           (r.stream.val + 15 - p.val) % 16 ≤ (x.stream.val + 15 - p.val) % 16)))) ∧
    (s.grantChoice = none ↔ ∀ x ∈ s.store, s.eligible x = false)

/-- The source that a local answer goes to is the first one, counting upward from the source after the pointer and
wrapping from 63 to 0, whose answer front is LOCAL. -/
def Obligations.LocalRoundRobin : Prop :=
  ∀ s : State,
    (∀ f, s.localChoice = some f →
      s.answerFront f.source = some f ∧ f.state.isLocal = true ∧
      ∀ (S : Source) (g : OrderEntry), s.answerFront S = some g → g.state.isLocal = true →
        (f.source.toNat + 63 - s.answer.ptr.toNat) % 64 ≤ (S.toNat + 63 - s.answer.ptr.toNat) % 64) ∧
    (s.localChoice = none ↔ ∀ (S : Source) (g : OrderEntry), s.answerFront S = some g → g.state.isLocal = false)

/-! ### Notices (09) -/

/-- IRQn, URGn and TOP_NOTICE as conditions of the notice state. -/
def Obligations.NoticeLines : Prop :=
  ∀ nt : Notices,
    let counts (x : NoticeId) : Prop :=
      (cell nt.sources x).enable = true ∧ (cell nt.sources x).causes ≠ 0 ∧ nt.threshold < (cell nt.sources x).level
    (nt.irq = true ↔ ∃ x, counts x) ∧
    (nt.urg = true ↔ ∃ n : StreamId, (cell nt.sources (streamSource n)).causes.getLsbD 3 = true) ∧
    (∀ x : NoticeId, nt.topNotice = x.val ↔
      counts x ∧ ∀ y, counts y →
        (cell nt.sources y).level < (cell nt.sources x).level ∨
        ((cell nt.sources y).level = (cell nt.sources x).level ∧ x ≤ y)) ∧
    (nt.topNotice = 31 ↔ nt.irq = false)

/-- Where an occurrence goes: by INTERRUPT to the cause set; by HANDSHAKE into its source's waiting entry, or to a new
entry at the tail, or, with the queue full, to the cause set with OVERFLOW for source 21; EXPIRED always joins the
cause set. -/
def Obligations.OccurrenceRouting : Prop :=
  ∀ (nt : Notices) (o : Occurrence),
    let joined (n : Notices) (x : NoticeId) (cs : CauseSet) : Notices :=
      { n with sources := updAt n.sources x (fun q => { q with causes := q.causes ||| cs }) }
    let before := if o.cause = .expired then joined nt o.source o.cause.bit else nt
    ((cell nt.sources o.source).route = .interrupt → nt.occur o = joined nt o.source o.cause.bit) ∧
    ((cell nt.sources o.source).route = .handshake →
      ((∃ e ∈ nt.queue, e.source = o.source) →
        nt.occur o =
          { before with
            queue := nt.queue.map (fun e =>
              if e.source = o.source then { e with causes := e.causes ||| o.cause.bit } else e) }) ∧
      ((∀ e ∈ nt.queue, e.source ≠ o.source) → nt.queue.length < 8 →
        nt.occur o = { before with queue := nt.queue ++ [{ source := o.source, causes := o.cause.bit }] }) ∧
      ((∀ e ∈ nt.queue, e.source ≠ o.source) → 8 ≤ nt.queue.length →
        let fallen := joined nt o.source o.cause.bit
        ((cell nt.sources 21).route = .handshake → (∃ e ∈ nt.queue, e.source = 21) →
          nt.occur o =
            { fallen with
              queue := nt.queue.map (fun e => if e.source = 21 then { e with causes := e.causes ||| 1#5 } else e) }) ∧
        ((cell nt.sources 21).route = .interrupt ∨ (∀ e ∈ nt.queue, e.source ≠ 21) →
          nt.occur o = joined fallen 21 1#5)))

/-! ### UP (03, 11) -/

/-- Which resources lack for an offered request: an order entry at 256 entries, a store record at 96 records for a
request that would be kept, write data beats for a WRITE that would be kept. -/
def Obligations.ResourcesThatLack : Prop :=
  ∀ (s : State) (r : Request),
    let n := s.classify r
    let kept : Prop :=
      r.wellFormed = true ∧ (s.queue n).length < (s.stream n).live.holdLimit ∧
      ¬ ((s.stream n).mode = .on ∧ s.dev.mode = .regulate ∧ (s.stream n).live.policy = .refuse ∧
         (s.queue n ≠ [] ∨ s.windowOpen n = false ∨ (s.stream n).credit < r.beats.toNat))
    (r.wellFormed = true ↔
      1 ≤ r.beats.toNat ∧ r.beats.toNat ≤ 16 ∧ 16 ∣ r.address.toNat ∧
      r.address.toNat % 4096 + r.beats.toNat * 16 ≤ 4096) ∧
    ((s.lacks r).order = true ↔ 256 ≤ s.order.length) ∧
    ((s.lacks r).store = true ↔ kept ∧ 96 ≤ s.store.length) ∧
    ((s.lacks r).data = true ↔ kept ∧ r.kind = .write ∧ 1024 < s.bufferUsed + r.beats.toNat)

/-- The take of a request that is answered REFUSED, by an offer or where it waits: malformed, over the hold limit, or
refused by the REFUSE policy. It needs a free order entry alone. Its entry is LOCAL REFUSED at the tail, or, where it is
at once its source's answer front and the answer stage is empty, answered at the same event, by the fill that follows
the creation of a LOCAL front. That a REQUEST_OFFER under a standing VALID, which replaces the fields of the offer that
stands, is judged and so taken at once is the model's choice (log 9). -/
def Obligations.TakeOfARefusedRequest : Prop :=
  ∀ (s : State) (c : Instr) (r : Request), s.Brings c r → s.StoreMatches → s.dev.mode ≠ .draining →
    s.order.length < 256 →
    let n := s.classify r
    let st := s.stream n
    let refused (stream : Option StreamId) : State :=
      if s.answer.stage = none ∧ s.answerFront r.source = none then
        { s with
          up := s.up.taken
          answer := { stage := some { source := r.source, status := .refused, data := [] }, ptr := r.source } }
      else
        { s with
          up := s.up.taken
          order := s.order ++
            [{ source := r.source, stream := stream, kind := r.kind, beats := r.beats.toNat,
               state := .made .refused false, draw := s.up.draws }] }
    let counted : Stream := { st with counters := { st.counters with refusedRequests := st.counters.refusedRequests + 1 } }
    (r.wellFormed = false →
      ∃ t, exec c s = .next t ∧ Judged (refused none) [.occur { source := 22, cause := .malformed }] t) ∧
    (r.wellFormed = true → st.live.holdLimit ≤ (s.queue n).length →
      ∃ t, exec c s = .next t ∧
        Judged { refused (some n) with streams := updAt s.streams n (fun _ => counted) }
          [.occur { source := streamSource n, cause := .overflow }] t) ∧
    (r.wellFormed = true → (s.queue n).length < st.live.holdLimit →
      st.mode = .on → s.dev.mode = .regulate → st.live.policy = .refuse →
      (s.queue n ≠ [] ∨ s.windowOpen n = false ∨ st.credit < r.beats.toNat) →
      ∃ t, exec c s = .next t ∧
        Judged
          { refused (some n) with
            streams := updAt s.streams n (fun _ =>
              { counted with noted := st.noted || decide (st.credit < r.beats.toNat) }) }
          (.occur { source := streamSource n, cause := .refused } ::
            (if st.credit < r.beats.toNat ∧ st.noted = false then
              [.occur { source := streamSource n, cause := .credit }] else [])) t)

/-- The take of a kept request: a QUEUED order entry, a store record at the tail, the beats of a WRITE in the buffer,
and one waited request more unless the record is at once an eligible head. The request carries its beats, as every
request on UP does: a WRITE as many as its beats field says, a READ none (R173). That a REQUEST_OFFER under a standing
VALID, which replaces the fields of the offer that stands, is judged and so taken at once is the model's choice
(log 9). -/
def Obligations.TakeOfAKeptRequest : Prop :=
  ∀ (s : State) (c : Instr) (r : Request), s.Brings c r → s.dev.mode ≠ .draining → s.order.length < 256 →
    let n := s.classify r
    let st := s.stream n
    let x : StoreRec :=
      { source := r.source, kind := r.kind, address := r.address, beats := r.beats.toNat, stream := n, seq := s.up.seq,
        draw := s.up.draws, writeRef := if r.kind = .write then some s.up.draws else none,
        age := if st.live.ageLimit = 0 then none else some st.live.ageLimit, urgent := false }
    let joined : State :=
      { s with
        up := s.up.taken
        order := s.order ++
          [{ source := r.source, stream := some n, kind := r.kind, beats := r.beats.toNat, state := .queued,
             draw := s.up.draws }]
        store := s.store ++ [x]
        wdb := if r.kind = .write then s.wdb ++ [{ key := s.up.draws, data := r.data }] else s.wdb }
    r.wellFormed = true → r.carriesItsBeats = true → (s.queue n).length < st.live.holdLimit →
    ¬ (st.mode = .on ∧ s.dev.mode = .regulate ∧ st.live.policy = .refuse ∧
       (s.queue n ≠ [] ∨ s.windowOpen n = false ∨ st.credit < r.beats.toNat)) →
    s.store.length < 96 → (r.kind = .write → s.bufferUsed + r.beats.toNat ≤ 1024) →
    ∃ t, exec c s = .next t ∧
      Judged
        (if joined.eligible x = true then joined
         else
          { joined with
            streams := updAt s.streams n (fun _ =>
              { st with counters := { st.counters with waitedRequests := st.counters.waitedRequests + 1 } }) })
        [] t

/-- An offered request that cannot be taken stays offered, whole: in DRAINING, or while a resource lacks. After any
event no take is due. A VALID that falls without a take ends the offer with nothing taken, and so does the fall of the
response channel's VALID on DOWN. That an offer under a standing VALID is the same offer (log 9), and that a take which
is not due has no effect (log 3), are the model's choices. -/
def Obligations.OffersThatWaitOrEnd : Prop :=
  ∀ s : State, s.Ready →
    (∀ r : Request, s.dev.mode = .draining ∨ s.lacks r ≠ Lacking.none →
      ∃ t, exec (.requestOffer r) s = .next t ∧
        Judged
          { s with
            up := { s.up with offer := some r, lacking := if s.up.offer = none then Lacking.none else s.up.lacking } }
          [] t ∧
        t.up.offer = some r ∧
        t.up.lacking = if s.dev.mode = .draining then Lacking.none else s.lacks r) ∧
    exec .requestTake s = .next s ∧
    exec (.offerWithdrawn .upRequest) s = .next { s with up := { s.up with offer := none, lacking := Lacking.none } } ∧
    exec (.offerWithdrawn .downResponse) s = .next { s with downResp := none }

/-! ### Issue (05) -/

/-- The grant of the arbiter's choice into the empty issue stage; with the stage occupied or no candidate, none is
made. The waiting offer that the freed record lets in is taken at the same event (Ends). That the row GRANT has no
effect where none is made is the model's choice (log 3). -/
def Obligations.GrantMovesTheChoice : Prop :=
  (∀ s : State, s.Ready → s.issue.stage ≠ none ∨ s.grantChoice = none → exec .grant s = .next s) ∧
  ∀ (s : State) (r : StoreRec), s.Ready → s.issue.stage = none → s.grantChoice = some r →
    let n := r.stream
    let st := s.stream n
    let c := st.counters
    let counted : Counters :=
      { c with issuedRequests := c.issuedRequests + 1, issuedBeats := c.issuedBeats + BitVec.ofNat 32 r.beats }
    let st' : Stream :=
      if st.mode = .on ∧ s.dev.mode = .regulate then
        if r.beats ≤ st.credit then
          { st with issueCount := st.issueCount + 1, credit := st.credit - r.beats, counters := counted }
        else
          { st with
            issueCount := st.issueCount + 1, credit := 0
            counters := { counted with excessBeats := c.excessBeats + BitVec.ofNat 32 (r.beats - st.credit) } }
      else { st with issueCount := st.issueCount + 1, counters := counted }
    ∃ t, exec .grant s = .next t ∧
      Ends
        { s with
          store := s.store.filter (fun x => x.draw ≠ r.draw)
          order := s.order.map (fun e => if e.draw = r.draw then { e with state := .issued } else e)
          issue :=
            { stage := some
                { source := r.source, kind := r.kind, address := r.address, beats := r.beats, stream := n,
                  writeRef := r.writeRef }
              ptr := if r.urgent then s.issue.ptr else updAt s.issue.ptr st.live.priority (fun _ => n) }
          streams := updAt s.streams n (fun _ => st') }
        [] t

/-- What the part offers on its two channels, and the partners' takes of it: on UP the answer in the answer stage, on
DOWN the request in the issue stage, with the header that the grant put there and, for a WRITE, its own beats of the
write data buffer. DOWN's take empties the issue stage and frees a WRITE's beats, UP's take empties the answer stage;
with the stage empty nothing is offered. Either take completes the warm reset where it ends the drain, and UP's take is
followed by the fill of the stage where an answer is ready (Ends). A take with nothing to take has no effect, by the
model's choice (log 3). -/
def Obligations.PartnersTakeTheStages : Prop :=
  ∀ s : State, s.Ready →
    s.upResponse = s.answer.stage ∧
    (s.issue.stage = none → s.downRequest = none) ∧
    (∀ q, s.BufferMatches → s.issue.stage = some q →
      ∃ d, s.downRequest = some
          { source := q.source, kind := q.kind, address := q.address, beats := BitVec.ofNat 8 q.beats, data := d } ∧
        (q.kind = .read → d = []) ∧
        (q.kind = .write → d.length = q.beats ∧ (∃ a ∈ s.wdb, q.writeRef = some a.key) ∧
          ∀ a ∈ s.wdb, q.writeRef = some a.key → d = a.data)) ∧
    (∀ q, s.issue.stage = some q →
      ∃ t, exec .issueTake s = .next t ∧
        Ends { s with
          issue := { s.issue with stage := none }
          wdb := s.wdb.filter (fun a => q.writeRef ≠ some a.key) } [] t) ∧
    (s.issue.stage = none → exec .issueTake s = .next s) ∧
    (let drained : Prop := s.dev.mode = .draining ∧ (∀ e ∈ s.order, e.state = .abandoned) ∧ s.issue.stage = none
     let taken : State := { s with answer := { s.answer with stage := none } }
     (∃ t, exec .answerTake s = .next t ∧ Ends taken [] t) ∧
     (s.answerable = none → s.localChoice = none → ¬ drained → exec .answerTake s = .next taken) ∧
     (s.answer.stage = none → exec .answerTake s = .next s))

/-! ### Answers (06, 11) -/

/-- A response that is discarded at its offer: a stray raises STRAY; one that meets an ABANDONED entry takes the entry
from the table; one that meets a ghost clears its mark. That a RESPONSE_OFFER made while a response stands on DOWN
replaces it and is judged, and so discarded, at once is the model's choice (log 9). -/
def Obligations.ResponseDiscarded : Prop :=
  ∀ (s : State) (r : Response), s.Ready →
    (s.oldestDue r.source = none →
      ∃ t, exec (.responseOffer r) s = .next t ∧
        Judged { s with downResp := none } [.occur { source := 22, cause := .stray }] t) ∧
    (∀ m, s.oldestDue r.source = some m → m.state = .abandoned →
      ∃ t, exec (.responseOffer r) s = .next t ∧
        Ends { s with downResp := none, order := s.order.filter (fun e => e.draw ≠ m.draw) } [] t) ∧
    (∀ m status, s.oldestDue r.source = some m → m.state = .made status true →
      ∃ t, exec (.responseOffer r) s = .next t ∧
        Ends
          { s with
            downResp := none
            order := s.order.map (fun e => if e.draw = m.draw then { e with state := .made status false } else e) } [] t)

/-- A memory answer, at the response's offer into the empty answer stage, at UP's take of the stage's answer while the
response stands on DOWN, or at a fill that a state outside cold reset leaves due: the response of a source whose oldest
response-due entry is ISSUED and its answer front enters the stage. The entry names a stream, as every ISSUED one does
(R86). That a RESPONSE_OFFER made while a response stands on DOWN replaces it and is judged, and so answered, at once is
the model's choice (log 9). -/
def Obligations.MemoryAnswerFillsTheStage : Prop :=
  ∀ (s : State) (c : Instr) (r : Response) (m : OrderEntry) (n : StreamId),
    ((c = .responseOffer r ∧ s.Ready ∧ s.answer.stage = none) ∨ (c = .answerTake ∧ s.Ready ∧ s.downResp = some r) ∨
      (c = .answerFill ∧ s.inReset = false ∧ s.Noted ∧ s.downResp = some r ∧ s.answer.stage = none)) →
    s.oldestDue r.source = some m → m.state = .issued → s.answerFront r.source = some m → m.stream = some n →
    let ok : Bool := r.status = 0#3
    let got := r.data.take (min r.dataBeats.toNat 16)
    let st := s.stream n
    ∃ t, exec c s = .next t ∧
      Ends
        { s with
          downResp := none
          answer :=
            { s.answer with
              stage := some
                { source := r.source
                  status := if ok then .ok else .memerr
                  data := if ok ∧ m.kind = .read then (List.range m.beats).map (fun i => got.getD i 0) else [] } }
          order := s.order.filter (fun e => e.draw ≠ m.draw)
          streams := updAt s.streams n (fun _ =>
            { st with
              issueCount := st.issueCount - 1
              counters := if ok then st.counters
                else { st.counters with memoryErrors := st.counters.memoryErrors + 1 } }) }
        (if ok then [] else [.occur { source := streamSource n, cause := .memerr }]) t

/-- A response whose entry is ISSUED stays offered, and nothing else changes, while the answer stage is occupied or
another entry is its source's answer front. Where a response stands already the new one is offered in its place, by the
model's choice (log 9). -/
def Obligations.ResponseHeldOnDown : Prop :=
  ∀ (s : State) (r : Response) (m : OrderEntry), s.Ready →
    s.oldestDue r.source = some m → m.state = .issued →
    (s.answer.stage ≠ none ∨ ∃ f, s.answerFront r.source = some f ∧ f.draw ≠ m.draw) →
    exec (.responseOffer r) s = .next { s with downResp := some r }

/-- A fill with no memory answer ready, at UP's take of the stage's answer or where a state outside cold reset leaves one
due, goes to the LOCAL answer front that the round robin names: the stage takes REFUSED, EXPIRED or ABORTED, as the entry
says, and no data. After any event no fill is due; that the row ANSWER_FILL then has no effect is the model's choice
(log 3). -/
def Obligations.LocalAnswerFillsTheStage : Prop :=
  (∀ (s : State) (c : Instr) (f : OrderEntry) (status : LocalStatus) (ghost : Bool), s.StoreMatches →
    ((c = .answerTake ∧ s.Ready) ∨ (c = .answerFill ∧ s.inReset = false ∧ s.Noted ∧ s.answer.stage = none)) →
    s.answerable = none → s.localChoice = some f → f.state = .made status ghost →
    let named : AnswerStatus := match status with
      | .refused => .refused
      | .expired => .expired
      | .aborted => .aborted
    ∃ t, exec c s = .next t ∧
      Ends
        { s with
          answer := { stage := some { source := f.source, status := named, data := [] }, ptr := f.source }
          order :=
            if ghost then s.order.map (fun e => if e.draw = f.draw then { e with state := .abandoned } else e)
            else s.order.filter (fun e => e.draw ≠ f.draw) } [] t) ∧
  (∀ s : State, s.Ready → exec .answerFill s = .next s)

/-! ### Timers and streams (08, 02) -/

/-- Ticks. TAP_TICK k is the tick of tap k at every RUNNING timer clocked by it, which counts or begins a frame; AGE_TICK
is the tick of the age tap at the records, the drain timer and the handshake timer. A tick of the present REFCLK period
that is made and not yet taken is that tick, wherever other events stand between. Otherwise the row begins the next
period, if its tap ticks in it, as tap k does once for each 2^k periods: the divider moves on and the period's ticks are
made. Where ticks of the present period are still untaken, each is first an event of its own, the timers' in their order
and then the age tick: the row comes to what it does after the first of them. A rising edge of a cycle input: a sync edge
at the timers that have it as sync pin, a tick at the others that have it as clock source. The period's ticks as one
event for each tap and one for the users of age ticks, the order of the untaken ones before the next period (log 6), and
no effect of a tick that falls in neither period (log 3), are the model's choices. -/
def Obligations.TicksAndEdgesAtEveryTimer : Prop :=
  ∀ s : State, s.Ready →
    (∀ k : Tap,
      let ticks (p : State) : Prop :=
        ∃ t, exec (.tapTick k) s = .next t ∧ Ends (p.ticked k) (p.hitNotices (p.tapHit k)) t
      ((∃ u, s.tickOwed k u) → ticks s) ∧
      (s.quiet → tapDue (s.timebase + 1) k → ticks s.nextPeriod) ∧
      ((∀ u, ¬ s.tickOwed k u) → ¬ tapDue (s.timebase + 1) k → exec (.tapTick k) s = .next s)) ∧
    (∀ p : State, s.AgeTickFrom p →
      let ends (u : State) (jobs : List NoticeJob) : Prop :=
        ∃ t, exec .ageTick s = .next t ∧ Ends (p.ageTaken u) jobs t
      (s.StoreMatches → s.dev.mode ≠ .draining →
        ∃ marks : StoreRec → Bool,
          (∀ r ∈ s.keptRecords, marks r = true ↔ InClosure s.keptRecords (fun x => x.age = some 1) r) ∧
          ends (s.aged marks) (s.agedNotices ++ [.ageTick])) ∧
      (s.dev.mode = .draining → s.store = [] →
        (s.dev.timesOut → ends s.timedOut [.occur { source := 23, cause := .drainTimeout }, .ageTick]) ∧
        (¬ s.dev.timesOut → s.dev.drainRunning = true →
          ends { s with dev := { s.dev with drainTimer := s.dev.timerUp } } [.ageTick]) ∧
        (s.dev.drainRunning = false → ends s [.ageTick]))) ∧
    (¬ s.ageOwed → ¬ tapDue (s.timebase + 1) s.ageTap → exec .ageTick s = .next s) ∧
    (∀ c : Instr, s.beginsPeriod c →
      (∀ j u, s.tickOwed j u → (∀ i, ∀ v < u, ¬ s.tickOwed i v) →
        ∃ b, exec (.tapTick j) s = .next b ∧ exec c s = exec c b) ∧
      ((∀ j u, ¬ s.tickOwed j u) → s.ageOwed → ∃ b, exec .ageTick s = .next b ∧ exec c s = exec c b)) ∧
    (∀ pin : CyclePin,
      let hit (t : TimerId) : TimerHit := (s.timer t).edgeHit pin
      ∃ t, exec (.cycleEdge pin) s = .next t ∧ Ends (s.timersHit hit) (s.hitNotices hit) t)

/-- The frame start of one timer by each of its causes, where the cause can make it, and the cascade tick that a timer
takes, made earlier; a timer that is cascaded no longer loses it. The row FRAME_START as one timer's part of its
event, none where the cause cannot make it, and the moment at which CASCADE is asked, are the model's choices (logs 3,
4 and 26). -/
def Obligations.FrameStartAndCascadeTick : Prop :=
  ∀ (s : State) (t : TimerId), s.Ready →
    let x := s.timer t
    let one (h : TimerHit) (u : TimerId) : TimerHit := if u = t then h else .none
    let starts (cause : FrameCause) : Prop :=
      ∃ s', exec (.frameStart t cause) s = .next s' ∧
        Ends (s.timersHit (one (.frame cause))) (s.hitNotices (one (.frame cause))) s'
    starts .restart ∧
    (x.state = .running → x.count + 1 = x.frameLength → starts .tick) ∧
    (x.state ≠ .running ∨ x.count + 1 ≠ x.frameLength → exec (.frameStart t .tick) s = .next s) ∧
    (x.sync ≠ .free → x.state ≠ .stopped → starts .syncEdge) ∧
    (x.sync = .free ∨ x.state = .stopped → exec (.frameStart t .syncEdge) s = .next s) ∧
    (0 < cell s.cascades t → x.clock = .cascade →
      let s1 := { s with cascades := updAt s.cascades t (· - 1) }
      ∃ s', exec (.cascadeTick t) s = .next s' ∧
        Ends (s1.timersHit (one x.tickHit)) (s1.hitNotices (one x.tickHit)) s') ∧
    (0 < cell s.cascades t → x.clock ≠ .cascade →
      exec (.cascadeTick t) s = .next { s with cascades := updAt s.cascades t (· - 1) }) ∧
    (cell s.cascades t = 0 → exec (.cascadeTick t) s = .next s)

/-- A frame start of timer t made for stream n is taken there: while the live set names t, the stream applies a
pending set that is valid, replenishes by its credit mode with the live set as it then stands, and clears its marker
before the shortfall test; otherwise the frame start does not reach it. A delivery that was not made has no effect, by
the model's choice (log 3). -/
def Obligations.FrameStartReachesABoundStream : Prop :=
  ∀ (s : State) (t : TimerId) (n : StreamId), s.Ready →
    let st := s.stream n
    let live := if st.pendingValid then st.pend else st.live
    let credit := match live.creditMode with
      | .reset => live.reload
      | .accumulate => min (st.credit + live.reload) (max live.cap live.reload)
    ((t, n) ∈ s.deliveries → st.live.timer = t →
      ∃ s', exec (.frameStartDelivery t n) s = .next s' ∧
        Ends
          { s with
            deliveries := s.deliveries.erase (t, n)
            streams := updAt s.streams n (fun _ =>
              { st with live := live, pendingValid := false, credit := credit, noted := false }) } [] s') ∧
    ((t, n) ∈ s.deliveries → st.live.timer ≠ t →
      exec (.frameStartDelivery t n) s = .next { s with deliveries := s.deliveries.erase (t, n) }) ∧
    ((t, n) ∉ s.deliveries → exec (.frameStartDelivery t n) s = .next s)

/-! ### Age supervision (07) -/

/-- The marks of the urgency closure are the closure of R110, the smallest set that holds the seeds, every record
ahead of a member in its queue and every earlier record of a member's source, over a store in drawing order. -/
def Obligations.UrgencyClosureIsSmallest : Prop :=
  ∀ (store : List StoreRec) (seed : StoreRec → Bool),
    store.Pairwise (fun a b => a.draw < b.draw) →
    (urgencyClosure seed store).map Prod.fst = store ∧
    ∀ r mark, (r, mark) ∈ urgencyClosure seed store →
      (mark = true ↔ InClosure store (fun x => seed x = true) r)

/-- An age tick in BYPASS and REGULATE, the tick of the age tap in a REFCLK period: the records at age 1 expire, those
under DROP leave first, every other present age above 0 falls by 1, and the closure of the FORCE expiries is marked
urgent. It is an event of its own, before or after the ticks at the timers and the frame starts of its period, in the
order of the rows: TAP_TICK alone ages no record, in every mode, nor does it change what an age tick changes in the other
blocks. That the users of age ticks take one at one event is the model's choice (log 6), and so is it that AGE_TICK has
no effect where no age tick is made and the age tap does not tick in the next period (log 3). -/
def Obligations.AgeTickAgesAndExpires : Prop :=
  ∀ s : State, s.Ready →
    (∀ p : State, s.AgeTickFrom p → s.StoreMatches → s.dev.mode ≠ .draining →
      let action (r : StoreRec) : AgeAction := (s.stream r.stream).live.ageAction
      let dropped (r : StoreRec) : Bool := decide (r.age = some 1 ∧ action r = .drop)
      let kept := s.store.filter (fun r => !dropped r)
      let gone := s.store.filter dropped
      let expired := s.store.filter (fun r => decide (r.age = some 1))
      ∃ (t : State) (marks : StoreRec → Bool),
        (∀ r ∈ kept, marks r = true ↔ InClosure kept (fun x => x.age = some 1) r) ∧
        exec .ageTick s = .next t ∧
        Ends
          (p.ageTaken { s with
            store := kept.map (fun r => { r with age := r.age.map (· - 1), urgent := r.urgent || marks r })
            order := s.order.map (fun e =>
              if e.state = .queued ∧ ∃ r ∈ gone, r.draw = e.draw then { e with state := .made .expired false } else e)
            wdb := s.wdb.filter (fun a => decide (∀ r ∈ gone, r.writeRef ≠ some a.key))
            streams := mapAll s.streams (fun n st =>
              { st with
                counters :=
                  { st.counters with
                    expiredRequests := st.counters.expiredRequests +
                      BitVec.ofNat 32 (expired.filter (fun r => r.stream = n)).length } }) })
          (expired.map (fun r => .occur { source := streamSource r.stream, cause := .expired }) ++ [.ageTick]) t) ∧
    (¬ s.ageOwed → ¬ tapDue (s.timebase + 1) s.ageTap → exec .ageTick s = .next s) ∧
    (∀ k : Tap, (¬ s.ageOwed ∨ (∃ u, s.tickOwed k u) ∨ ¬ tapDue (s.timebase + 1) k) →
      ∃ t, exec (.tapTick k) s = .next t ∧ t.store.map (fun r => r.age) = s.store.map (fun r => r.age) ∧
        t.dev = s.dev ∧ t.nt.hold = s.nt.hold)

/-- The expiry of one record: under FORCE it and its closure become urgent and its age is 0; under DROP it leaves the
store wherever it stands, its entry LOCAL EXPIRED. A row that names no record of the store at age 1 of its own action
has no effect, whatever drawing number it names. The two rows as one record's part of an age tick, and none where it is
not due, are the model's choices (logs 3 and 4). -/
def Obligations.OneRecordExpires : Prop :=
  (∀ (s : State) (draw : Nat), s.Ready →
    let none1 (a : AgeAction) : Prop :=
      ∀ x ∈ s.store, x.draw = draw → x.age = some 1 → (s.stream x.stream).live.ageAction ≠ a
    (none1 .force → exec (.forceExpiry draw) s = .next s) ∧ (none1 .drop → exec (.dropExpiry draw) s = .next s)) ∧
  ∀ (s : State) (r : StoreRec), s.Ready → s.StoreMatches → r ∈ s.store → r.age = some 1 →
    let st := s.stream r.stream
    let counted (u : State) : State :=
      { u with
        streams := updAt s.streams r.stream (fun _ =>
          { st with counters := { st.counters with expiredRequests := st.counters.expiredRequests + 1 } }) }
    let raised : List NoticeJob := [.occur { source := streamSource r.stream, cause := .expired }]
    (st.live.ageAction = .force →
      exec (.dropExpiry r.draw) s = .next s ∧
      ∃ (t : State) (marks : StoreRec → Bool),
        (∀ x ∈ s.store, marks x = true ↔ InClosure s.store (fun y => y = r) x) ∧
        exec (.forceExpiry r.draw) s = .next t ∧
        Ends
          (counted
            { s with
              store := s.store.map (fun x =>
                { x with age := if x = r then some 0 else x.age, urgent := x.urgent || marks x }) }) raised t) ∧
    (st.live.ageAction = .drop →
      exec (.forceExpiry r.draw) s = .next s ∧
      ∃ t, exec (.dropExpiry r.draw) s = .next t ∧
        Ends
          (counted
            { s with
              store := s.store.filter (fun x => x.draw ≠ r.draw)
              order := s.order.map (fun e => if e.draw = r.draw then { e with state := .made .expired false } else e)
              wdb := s.wdb.filter (fun a => r.writeRef ≠ some a.key) }) raised t)

/-! ### Event handshake (09) -/

/-- The handshake port: a presentation, an acknowledge, a spurious edge and the falling edges, by the port's state; the
fall in RECOVERING presents at once where entries wait and the hold is clear. A presentation that is not due and a
rise of EVACK in RECOVERING have no effect, and the stopped timer holds 0, by the model's choices (logs 3, 19 and
20). -/
def Obligations.HandshakePort : Prop :=
  ∀ s : State, s.Ready →
    (∀ (nt : Notices) (e : HsEntry) (rest : List HsEntry), nt.queue = e :: rest → nt.port = .idle → nt.hold = false →
      let shown : Notices := { nt with port := .presenting, timer := 0 }
      exec .presentation { s with nt := nt } = .next { s with nt := shown } ∧
      shown.evreq = true ∧ shown.evcode = e.source.val) ∧
    (s.nt.port ≠ .idle ∨ s.nt.hold = true ∨ s.nt.queue = [] → exec .presentation s = .next s) ∧
    (∀ e rest, s.nt.queue = e :: rest → s.nt.port = .presenting →
      exec .evackRise s = .next
        { s with
          nt :=
            { s.nt with
              sources :=
                if (cell s.nt.sources e.source).notifyAfter then
                  updAt s.nt.sources e.source (fun q => { q with causes := q.causes ||| e.causes })
                else s.nt.sources
              queue := rest, port := .recovering, timer := 0 } }) ∧
    (s.nt.port = .idle →
      ∃ nt k, s.nt.Takes [.occur { source := 21, cause := .spurious }] nt ∧
        exec .evackRise s = .next { s with nt := nt, freeCount := k }) ∧
    (s.nt.port = .recovering → exec .evackRise s = .next s) ∧
    (s.nt.port = .recovering → s.nt.queue = [] ∨ s.nt.hold = true →
      exec .evackFall s = .next { s with nt := { s.nt with port := .idle } }) ∧
    (s.nt.port = .recovering → s.nt.queue ≠ [] → s.nt.hold = false →
      exec .evackFall s = .next { s with nt := { s.nt with port := .presenting, timer := 0 } }) ∧
    (s.nt.port ≠ .recovering → exec .evackFall s = .next s)

/-- The handshake timer at an age tick: it counts while a presentation stands; the tick that reaches the limit is the
timeout, at which the head's causes join their source's set whatever its notify-after, the hold is set and source 21
receives TIMEOUT; otherwise the tick clears the hold, and in IDLE it presents where entries wait. The row
HANDSHAKE_TIMEOUT is that tick at the timeout. The row as the handshake timer's part of an age tick, none where it is
not due, and the stopped timer's 0, are the model's choices (logs 3, 4 and 20). -/
def Obligations.HandshakeTimer : Prop :=
  ∀ s : State, s.Ready →
    let ticked : Notices := s.nt.run .ageTick
    (s.nt.port ≠ .presenting → exec .handshakeTimeout s = .next s) ∧
    (s.nt.port = .recovering → ticked = { s.nt with hold := false }) ∧
    (s.nt.port = .idle → s.nt.queue = [] → ticked = { s.nt with hold := false }) ∧
    (s.nt.port = .idle → s.nt.queue ≠ [] → ticked = { s.nt with hold := false, port := .presenting, timer := 0 }) ∧
    (s.nt.port = .presenting → s.nt.timer + 1 < s.nt.limit →
      ticked = { s.nt with timer := s.nt.timer + 1, hold := false } ∧ exec .handshakeTimeout s = .next s) ∧
    (∀ e rest, s.nt.port = .presenting → s.nt.limit ≤ s.nt.timer + 1 → s.nt.queue = e :: rest →
      ticked =
        { s.nt with
          sources := updAt s.nt.sources e.source (fun q => { q with causes := q.causes ||| e.causes })
          queue := rest, port := .idle, hold := true, timer := 0 }.occur { source := 21, cause := .timeout } ∧
      ∃ k, exec .handshakeTimeout s = .next { s with nt := ticked, freeCount := k })

/-! ### Warm and cold reset (10) -/

/-- The start of a warm reset, by the command or by WRSTn, outside DRAINING: everything it clears and everything it
keeps, a stall ended; the answer stage, if empty, is filled with one of the ABORTED answers (Ends). Where nothing is left
to wait for the mode is DRAINING all the same, and the completion follows (Begun, and Obligations.WarmResetCompletes). In
DRAINING the edge is ignored and the command is refused BUSY; so is a second request that comes together with the first,
whichever comes first and whatever is left, and one warm reset takes place. That the second comes together with the first
where it is the next command of the queue is the model's choice (log 31). Where something is left, the edge after the
command changes nothing in a state whose drawing numbers rise (StoreMatches, which StepsKeepTheCorrespondence keeps): no
entry but the answered one then leaves the order table at the start. That frame starts and cascade ticks under way are
kept is the model's deduction (log 18), the stopped handshake timer's 0 its choice (log 20). -/
def Obligations.WarmResetStarts : Prop :=
  ∀ (s : State), s.Ready →
    let started : State :=
      { s with
        dev := { s.dev with mode := .draining, drainRunning := true, drainTimer := 0 }
        store := []
        wdb := s.wdb.filter (fun a => match s.issue.stage with
          | some q => q.writeRef = some a.key
          | none => false)
        order := s.order.map (fun e => if e.state = .queued then { e with state := .made .aborted false } else e)
        timers := mapAll s.timers (fun _ x => { x with state := .stopped })
        nt :=
          { s.nt with
            sources := mapAll s.nt.sources (fun _ q => { q with causes := 0 })
            queue := [], port := .idle, hold := false, timer := 0 }
        up := { s.up with lacking := Lacking.none } }
    let left : Prop := (∃ e ∈ s.order, e.state ≠ .abandoned) ∨ s.issue.stage ≠ none ∨ s.answer.stage ≠ none
    let starts (c : Instr) (u : State) : Prop :=
      (left → ∃ t, exec c s = .next t ∧ Ends u [] t) ∧ (¬ left → exec c s = .next u ∧ u.Begun)
    (s.dev.mode ≠ .draining → starts .wrstnFall started) ∧
    (s.dev.mode ≠ .draining → s.TakesWord commandAddr →
      starts .warmReset { started with mgmt := s.mgmt.resulted .accepted }) ∧
    (s.dev.mode = .draining → exec .wrstnFall s = .next s) ∧
    (s.dev.mode = .draining → s.TakesWord commandAddr →
      exec .warmReset s = .next { s with mgmt := s.mgmt.resulted .refusedBusy }) ∧
    (s.dev.mode ≠ .draining → s.TakesWord commandAddr →
      (∀ b, exec .wrstnFall s = .next b →
        b.dev.mode = .draining ∧
        ∃ t, exec .warmReset b = .next t ∧ t.mgmt.cmdResult = .refusedBusy ∧ t.mgmt.lastError = .busy) ∧
      (∀ b, exec .warmReset s = .next b →
        b.dev.mode = .draining ∧ b.mgmt.cmdResult = .accepted ∧
        (left → s.StoreMatches → exec .wrstnFall b = .next b) ∧ (¬ left → exec .wrstnFall b = exec .warmResetCompletion b)))

/-- The drain timeout: every ISSUED entry becomes LOCAL ABORTED with the ghost mark, the issue counts fall by the
entries so changed, CONTROL receives DRAIN_TIMEOUT, a response held on DOWN is discarded into its ghost, and the answer
stage, if empty, is filled with one of the ABORTED answers (Ends). The row is the timeout tick at the drain timer, due
when the running timer reaches a limit of 1 or more; short of it an age tick in the drain raises the running timer by 1,
up to 65535. The row as the drain timer's part of an age tick, none where it is not due, and the age tick at its users
as one event, are the model's choices (logs 3, 4 and 6). -/
def Obligations.DrainTimerAndTimeout : Prop :=
  ∀ s : State, s.Ready →
    let up := min 65535 (s.dev.drainTimer + 1)
    let due : Prop := s.dev.mode = .draining ∧ s.dev.drainRunning = true ∧ 1 ≤ s.dev.drainLimit ∧ s.dev.drainLimit ≤ up
    let ghosted : State :=
      { s with
        dev := { s.dev with drainRunning := false, drainTimer := up }
        order := s.order.map (fun e => if e.state = .issued then { e with state := .made .aborted true } else e)
        streams := mapAll s.streams (fun n st =>
          { st with issueCount := st.issueCount -
              (s.order.filter (fun e => decide (e.stream = some n ∧ e.state = .issued))).length }) }
    let discarded (m : OrderEntry) : State :=
      { ghosted with
        downResp := none
        order := ghosted.order.map (fun e => if e.draw = m.draw then { e with state := .made .aborted false } else e) }
    let raised : List NoticeJob := [.occur { source := 23, cause := .drainTimeout }]
    (due → s.downResp = none → ∃ t, exec .drainTimeout s = .next t ∧ Ends ghosted raised t) ∧
    (∀ r m, due → s.downResp = some r → s.oldestDue r.source = some m →
      ∃ t, exec .drainTimeout s = .next t ∧ Ends (discarded m) raised t) ∧
    (¬ due → exec .drainTimeout s = .next s) ∧
    (∀ p : State, s.AgeTickFrom p → s.store = [] →
      let ends (u : State) (jobs : List NoticeJob) : Prop :=
        ∃ t, exec .ageTick s = .next t ∧ Ends (p.ageTaken u) jobs t
      let judged (u : State) : Prop :=
        ∃ t, exec .ageTick s = .next t ∧ Judged (p.ageTaken u) [.ageTick] t
      (due → s.downResp = none → ends ghosted (raised ++ [.ageTick])) ∧
      (∀ r m, due → s.downResp = some r → s.oldestDue r.source = some m → ends (discarded m) (raised ++ [.ageTick])) ∧
      (s.dev.mode = .draining → s.dev.drainRunning = true → (s.dev.drainLimit = 0 ∨ up < s.dev.drainLimit) →
        judged { s with dev := { s.dev with drainTimer := up } }) ∧
      (s.dev.mode = .draining → s.dev.drainRunning = false → judged s))

/-- The completion of a warm reset, at the event after which no entry but ABANDONED ones is left and neither stage
holds anything: UP's take of the last answer, DOWN's take of the issue stage's request, or, after a start that left
nothing to wait for (Begun), an event of its own that follows it, the row WARM_RESET_COMPLETION. Every block takes its
warm values at that event, and an offer that waits is then taken where R32 lets it, or begins to lack what it lacks, a
stall from before the start included (Ends). The completion follows the start at once: any other event comes after it,
but for a second request for a warm reset, which is ignored, or refused BUSY, and then followed by the completion (log 31).
The row has no effect after any other event, none leaving a completion due (log 3), and frame starts and cascade ticks
under way are kept (log 18), by the model's choice and deduction. -/
def Obligations.WarmResetCompletes : Prop :=
  ∀ s : State,
    let left : Prop := ∃ e ∈ s.order, e.state ≠ .abandoned
    let warmed (u : State) : State :=
      { u with
        dev := { u.dev with mode := .bypass, drainRunning := false }
        streams := mapAll u.streams (fun _ st =>
          { st with credit := st.live.reload, issueCount := 0, noted := false, counters := Counters.zero })
        issue := { stage := none, ptr := Vector.replicate 8 15 }
        answer := { stage := none, ptr := 63 }
        timers := mapAll u.timers (fun _ x => { x with state := .stopped, count := 0 })
        mgmt :=
          { u.mgmt with
            snapshot :=
              { valid := false, stream := 0, counters := Counters.zero, credit := 0, queueLength := 0, issueCount := 0 } } }
    let ends (c : Instr) (u : State) : Prop := ∃ t, exec c s = .next t ∧ Ends (warmed u) [] t
    (s.Begun →
      ends .warmResetCompletion s ∧
      (∀ (t : State) (c : Instr), exec .warmResetCompletion s = .next t → ¬ AsksReset c → c ≠ .warmResetCompletion →
        c ≠ .coldReset → c ≠ .coldResetRelease → exec c s = exec c t) ∧
      exec .wrstnFall s = exec .warmResetCompletion s ∧
      (s.mgmt.frame = .writing commandAddr →
        ends .warmReset { s with mgmt := s.mgmt.resulted .refusedBusy })) ∧
    (s.Ready →
      exec .warmResetCompletion s = .next s ∧
      (s.dev.mode = .draining → ¬ left → s.issue.stage = none → ends .answerTake s) ∧
      (∀ q, s.dev.mode = .draining → ¬ left → s.issue.stage = some q → s.answer.stage = none →
        ends .issueTake { s with wdb := s.wdb.filter (fun a => q.writeRef ≠ some a.key) }) ∧
      (∀ b : State, s.dev.mode ≠ .draining → ¬ left → s.issue.stage = none → s.answer.stage = none →
        (exec .wrstnFall s = .next b ∨ (s.TakesWord commandAddr ∧ exec .warmReset s = .next b)) →
        ∃ t, exec .warmResetCompletion b = .next t ∧ Ends (warmed b) [] t ∧ t.dev.mode = .bypass ∧
          t.dev.drainRunning = false ∧ ∀ x, (t.timer x).state = .stopped ∧ (t.timer x).count = 0))

/-- Cold reset sets every block to its cold values, the model's own queue and count apart; what the partners hold on
their lines stands (log 8), and while the reset is in force a transfer offered to the part only stands on its channel,
CSn only changes its level, the part offers nothing and leaves SDO undriven, and no other command acts (log 23); at
the release a standing response is a stray, and a standing request is taken as a new one, with sequence number 0: a
malformed one is answered REFUSED at the same event, the answer stage being empty, and any other is kept in stream 0.
The kept queue and count (log 7), the status byte, the read word and the stopped timers at 0 (logs 17 and 20) are the
model's choices, and that a release with no reset in force changes nothing is its deduction (log 3). -/
def Obligations.ColdResetAndRelease : Prop :=
  (∀ s : State, exec .coldReset s =
    .next
      { State.reset with
        pending := s.pending, inReset := true, freeCount := s.freeCount, downResp := s.downResp
        up := { State.reset.up with offer := s.up.offer }
        mgmt := { State.reset.mgmt with selected := s.mgmt.selected } }) ∧
  (∀ (s : State) (r : Request), s.inReset = true → s.heldCold →
    exec (.requestOffer r) s = .next { s with up := { s.up with offer := some r } }) ∧
  (∀ (s : State) (r : Response), s.inReset = true → exec (.responseOffer r) s = .next { s with downResp := some r }) ∧
  (∀ s : State, s.inReset = true → exec .spiFrameStart s = .next { s with mgmt := { s.mgmt with selected := true } }) ∧
  (∀ (s : State) (cut : FrameCut), s.inReset = true →
    exec (.spiFrameEnd cut) s = .next { s with mgmt := { s.mgmt with selected := false } }) ∧
  (∀ s : State, s.inReset = true → s.heldCold → s.up.offer = none → s.downResp = none →
    exec .coldResetRelease s = .next { s with inReset := false }) ∧
  (∀ s : State, s.inReset = true → s.heldCold →
    let stray : List NoticeJob := if s.downResp = none then [] else [.occur { source := 22, cause := .stray }]
    let released : State := { s with inReset := false, downResp := none }
    (s.up.offer = none → ∃ t, exec .coldResetRelease s = .next t ∧ Judged released stray t) ∧
    (∀ r : Request, s.up.offer = some r → r.wellFormed = false →
      ∃ t, exec .coldResetRelease s = .next t ∧
        Judged
          { released with
            up := s.up.taken
            answer := { stage := some { source := r.source, status := .refused, data := [] }, ptr := r.source } }
          (stray ++ [.occur { source := 22, cause := .malformed }]) t) ∧
    (∀ r : Request, s.up.offer = some r → r.wellFormed = true → r.carriesItsBeats = true →
      ∃ t, exec .coldResetRelease s = .next t ∧
        Judged
          { released with
            up := s.up.taken
            order :=
              [{ source := r.source, stream := some 0, kind := r.kind, beats := r.beats.toNat, state := .queued,
                 draw := 0 }]
            store :=
              [{ source := r.source, kind := r.kind, address := r.address, beats := r.beats.toNat, stream := 0, seq := 0,
                 draw := 0, writeRef := if r.kind = .write then some 0 else none, age := none, urgent := false }]
            wdb := if r.kind = .write then [{ key := 0, data := r.data }] else [] }
          stray t)) ∧
  (∀ s : State, s.inReset = false → exec .coldResetRelease s = .next s) ∧
  (∀ s : State, s.inReset = true → s.upResponse = none ∧ s.downRequest = none ∧ s.sdo = none) ∧
  (∀ (s : State) (c : Instr), s.inReset = true →
    (∀ r, c ≠ .requestOffer r) → (∀ r, c ≠ .responseOffer r) → (∀ ch, c ≠ .offerWithdrawn ch) → c ≠ .spiFrameStart →
    (∀ cut, c ≠ .spiFrameEnd cut) → c ≠ .coldReset → c ≠ .coldResetRelease → exec c s = .next s)

/-! ### Management port (12) -/

/-- SPI frames: the fall of CSn captures the status byte and clears the last error; byte 0 makes the frame a READ or a
WRITE that starts at the address of bytes 1 and 2, or, being an unknown operation, records FRAME, raises MGMT_FRAME
and has the rest of the frame ignored; the rise of CSn ends the frame and records FRAME where it cuts a header or a
word short, but not in the turnaround byte, in an ignored frame or with no frame in progress. The words of an ignored
frame do nothing. What SDO carries in each part of a frame; with CSn high it is undriven. That the row of an unknown
operation carries every header (log 15), that a header is one event and the place of the rise of CSn an operand
(log 16), that a rise after a whole word of a READ stands between two parts whether or not the word's last bit captured
another (log 32), and that CSn low does not fall and a frame has one header (log 3), are the model's choices. -/
def Obligations.SpiFrames : Prop :=
  ∀ s : State, s.Ready →
    let code : Nat := match s.mgmt.lastError with
      | .none => 0
      | .addr => 1
      | .busy => 2
      | .frame => 3
      | .arg => 4
    (s.mgmt.selected = false → ∃ b : BitVec 8,
      exec .spiFrameStart s = .next
        { s with mgmt := { s.mgmt with selected := true, frame := .header, statusByte := b, lastError := .none } } ∧
      (b.getLsbD 7 = true ↔ s.dev.mode = .draining) ∧ (b.getLsbD 6 = true ↔ s.dev.mode = .regulate) ∧
      b.getLsbD 5 = s.nt.irq ∧ b.getLsbD 4 = s.nt.urg ∧ b.toNat % 16 = code) ∧
    (s.mgmt.selected = true → exec .spiFrameStart s = .next s) ∧
    (∀ h : Header, s.mgmt.frame = .header →
      (h.byte = 0xC5#8 → exec (.unknownOperation h) s = .next
        { s with mgmt := { s.mgmt with frame := .turnaround (h.high ++ h.low) } }) ∧
      (h.byte = 0xCA#8 → exec (.unknownOperation h) s = .next
        { s with mgmt := { s.mgmt with frame := .writing (h.high ++ h.low) } })) ∧
    (∀ h : Header, h.byte ≠ 0xC5#8 → h.byte ≠ 0xCA#8 → s.mgmt.frame = .header →
      ∃ nt k, s.nt.Takes [.occur { source := 23, cause := .mgmtFrame }] nt ∧
        exec (.unknownOperation h) s = .next
          { s with nt := nt, mgmt := { s.mgmt with lastError := .frame, frame := .ignored }, freeCount := k }) ∧
    (∀ h : Header, s.mgmt.frame ≠ .header → exec (.unknownOperation h) s = .next s) ∧
    (∀ cut,
      let reported : Bool := match s.mgmt.frame with
        | .header => true
        | .reading _ => true
        | .writing _ => true
        | .turnaround _ => false
        | .ignored => false
        | .none => false
      exec (.spiFrameEnd cut) s = .next
        { s with
          mgmt :=
            { s.mgmt with
              selected := false, frame := .none
              lastError := if cut = .partway ∧ reported = true then .frame else s.mgmt.lastError } }) ∧
    (s.mgmt.frame = .ignored →
      ∀ a v, exec (.registerWrite a v) s = .next s ∧ exec (.unmappedRead a) s = .next s) ∧
    (s.mgmt.selected = false → s.sdo = none) ∧
    (s.mgmt.selected = true →
      (s.mgmt.frame = .header → s.sdo = some [s.mgmt.statusByte, 0, 0]) ∧
      (∀ a, s.mgmt.frame = .writing a → s.sdo = some [0, 0, 0, 0]) ∧
      (∀ a, s.mgmt.frame = .turnaround a → s.sdo = some [0]) ∧
      (∀ a, s.mgmt.frame = .reading a →
        ∃ b3 b2 b1 b0, s.sdo = some [b3, b2, b1, b0] ∧ b3 ++ (b2 ++ (b1 ++ b0)) = s.mgmt.readWord) ∧
      (s.mgmt.frame = .ignored → s.sdo = some [0]))

/-- A read word, captured at the frame's current address, which then increases by 1: of an unmapped address it is 0 and
records ADDR; of every mapped one it is the number of the field that 12.3 names there, as it stands at the capture,
without an error. A read changes nothing else. Unmapped for reading are exactly the addresses that are unmapped for
writing. That the row UNMAPPED_READ stands for a read of any address (log 15), that the sender says whether the frame's
last word captures one more (log 32), and that the bits of 040h + 4i, of a
stream's flags word at offset 23h and of the snapshot word 780h that the spec does not name read 0 (log 25), are the
model's choices. -/
def Obligations.ReadsOfTheWindow : Prop :=
  ∀ s : State, s.Ready →
    let gives (a : WordAddr) (w : Word) (e : MgmtError) : Prop :=
      ∀ f : SpiFrame, f = .turnaround a ∨ f = .reading a →
        exec (.unmappedRead a) { s with mgmt := { s.mgmt with frame := f } } =
          .next { s with mgmt := { s.mgmt with readWord := w, lastError := e, frame := .reading (a + 1) } }
    let reads (a : Nat) (w : Nat) : Prop := gives (BitVec.ofNat 16 a) (BitVec.ofNat 32 w) s.mgmt.lastError
    let select (x : Option StreamId) : Nat := match x with
      | some n => n.val
      | none => 16
    let kind (f : KindFilter) : Nat := match f with
      | .read => 0
      | .write => 1
      | .any => 2
    let bit (b : Bool) : Nat := if b then 1 else 0
    let params (p : Params) : List Nat :=
      [(match p.policy with | .hold => 0 | .refuse => 1 | .pass => 2), p.timer.val, p.windowStart, p.windowEnd, p.reload,
        (match p.creditMode with | .reset => 0 | .accumulate => 1), p.cap, p.holdLimit, p.issueLimit, p.ageLimit,
        (match p.ageAction with | .force => 0 | .drop => 1), p.priority.val]
    let counters (c : Counters) : List Nat :=
      [c.issuedRequests.toNat, c.issuedBeats.toNat, c.excessBeats.toNat, c.waitedRequests.toNat,
        c.refusedRequests.toNat, c.expiredRequests.toNat, c.memoryErrors.toNat]
    let block (a : Nat) (l : List Nat) : Prop := ∀ i w, l[i]? = some w → reads (a + i) w
    (∀ a, addrKind a = .unmapped → gives a 0 .addr) ∧
    (∀ a, addrKind a ≠ .unmapped → ∃ w, gives a w s.mgmt.lastError) ∧
    block 0x000
      [(match s.dev.mode with | .bypass => 0 | .regulate => 1 | .draining => 2), 0,
        (match s.mgmt.cmdResult with | .accepted => 0 | .refusedBusy => 1 | .refusedArg => 2),
        (match s.nt.clearStyle with | .oneClears => 0 | .direct => 1), s.nt.threshold.val, s.nt.topNotice, s.ageTap.val,
        s.dev.drainLimit, s.nt.limit, select (cell s.winSelect 0), select (cell s.winSelect 1),
        select (cell s.winSelect 2), select (cell s.winSelect 3), s.store.length, s.order.length,
        (s.wdb.map (fun a => a.data.length)).sum] ∧
    block 0x020
      [s.staging.sourceValue.toNat, s.staging.sourceMask.toNat, kind s.staging.kind, s.staging.pageBase.toNat,
        s.staging.pageLimit.toNat, s.staging.stream.val] ∧
    (∀ i : Fin 32,
      let e := cell s.matchList i
      block (0x040 + 4 * i.val)
        [2 ^ 31 * bit e.valid + 2 ^ 16 * e.rule.stream.val + 2 ^ 12 * kind e.rule.kind +
            2 ^ 6 * e.rule.sourceMask.toNat + e.rule.sourceValue.toNat,
          e.rule.pageBase.toNat, e.rule.pageLimit.toNat, 0]) ∧
    (∀ n : StreamId,
      let st := s.stream n
      let base := 0x100 + 0x40 * n.val
      block base (params st.pend) ∧ block (base + 0x10) (params st.live) ∧
      block (base + 0x20)
        [st.credit, st.issueCount, (s.store.filter (fun r => r.stream = n)).length,
          bit (st.mode = .on) + 2 * bit st.pendingValid + 4 * bit st.noted] ∧
      block (base + 0x28) (counters st.counters)) ∧
    (∀ t : TimerId,
      let x := s.timer t
      block (0x500 + 8 * t.val)
        [(match x.state with | .stopped => 0 | .armed => 1 | .running => 2), x.count, x.frameLength, x.pendingLength,
          bit x.pendingValid,
          (match x.clock with | .tap k => k.val | .cycle0 => 16 | .cycle1 => 17 | .cascade => 18),
          (match x.sync with | .free => 0 | .sync0 => 1 | .sync1 => 2)]) ∧
    (∀ x : NoticeId,
      let q := cell s.nt.sources x
      block (0x600 + 8 * x.val)
        [q.causes.toNat, bit q.enable, q.level.val, (match q.route with | .interrupt => 0 | .handshake => 1),
          bit q.notifyAfter]) ∧
    block 0x700
      [(match s.nt.port with | .idle => 0 | .presenting => 1 | .recovering => 2), s.nt.queue.length,
        (match s.nt.queue with | e :: _ => e.source.val | [] => 31)] ∧
    block 0x780
      ((2 ^ 31 * bit s.mgmt.snapshot.valid + s.mgmt.snapshot.stream.val) :: counters s.mgmt.snapshot.counters ++
        [s.mgmt.snapshot.credit, s.mgmt.snapshot.queueLength, s.mgmt.snapshot.issueCount])

/-- A word of a WRITE frame goes to the frame's current address, which then increases by 1. At a read-only or unmapped
address it changes nothing else but the last error, ADDR; at a writable register it is that register's row; at the
command register it is the row of the command that the word spells, the bits that the command does not use ignored. A
word acts nowhere else: a row's word at another address, in another frame or in none has no effect, and so it is with a
read word at another address than its READ frame's. That the row REGISTER_WRITE so acts at every address (log 15), and
that a row whose word is not taken has no effect (log 3), are the model's choices. -/
def Obligations.WordsActByTheirAddress : Prop :=
  ∀ s : State,
    (∀ a v, s.TakesWord a → addrKind a = .readOnly ∨ addrKind a = .unmapped →
      exec (.registerWrite a v) s = .next { s with mgmt := s.mgmt.failed a .addr }) ∧
    (∀ (r : Reg) (v : Word), s.TakesWord r.addr → exec (.registerWrite r.addr v) s = exec (r.row v) s) ∧
    (∀ v : Word, s.TakesWord commandAddr → exec (.registerWrite commandAddr v) s = exec (decodeCommand v).row s) ∧
    (∀ (c : Instr) (a : WordAddr), s.Ready → wordTarget c = some a → s.mgmt.frame ≠ .writing a → exec c s = .next s) ∧
    (∀ a, s.Ready → s.mgmt.frame ≠ .turnaround a → s.mgmt.frame ≠ .reading a → exec (.unmappedRead a) s = .next s)

/-- A write of a staging field or of a pending parameter: a number in the field's range replaces that one field, and
for a parameter sets pending-valid; any other number changes no field and records ARG. -/
def Obligations.StagingAndPendingWrites : Prop :=
  ∀ s : State,
    (∀ (f : StagingField) (v : Word), s.TakesWord (Reg.staging f).addr → v.toNat ≤ stagingMost f →
      ∃ m : MatchRule, m.read f = v.toNat ∧ (∀ g, g ≠ f → m.read g = s.staging.read g) ∧
        exec (.stagingWrite f v) s = .next { s with staging := m, mgmt := s.mgmt.moved (Reg.staging f).addr }) ∧
    (∀ (f : StagingField) (v : Word), s.TakesWord (Reg.staging f).addr → stagingMost f < v.toNat →
      exec (.stagingWrite f v) s = .next { s with mgmt := s.mgmt.failed (Reg.staging f).addr .arg }) ∧
    (∀ (n : StreamId) (p : Param) (v : Word), s.TakesWord (Reg.pending n p).addr → v.toNat ≤ paramMost p →
      ∃ q : Params, q.read p = v.toNat ∧ (∀ g, g ≠ p → q.read g = (s.stream n).pend.read g) ∧
        exec (.pendingWrite n p v) s = .next
          { s with
            streams := updAt s.streams n (fun st => { st with pend := q, pendingValid := true })
            mgmt := s.mgmt.moved (Reg.pending n p).addr }) ∧
    (∀ (n : StreamId) (p : Param) (v : Word), s.TakesWord (Reg.pending n p).addr → paramMost p < v.toNat →
      exec (.pendingWrite n p v) s = .next { s with mgmt := s.mgmt.failed (Reg.pending n p).addr .arg })

/-- Writes of the timer fields: the frame length to the pending copy in every state; clock source and sync mode at
once while STOPPED, and otherwise refused BUSY; a number that the field cannot take is ARG. That ARG comes before BUSY
is the model's deduction (log 22). -/
def Obligations.TimerFieldWrites : Prop :=
  ∀ (s : State) (t : TimerId) (v : Word),
    let failed (r : Reg) (e : MgmtError) : State := { s with mgmt := s.mgmt.failed r.addr e }
    (s.TakesWord (Reg.frameLength t).addr →
      (1 ≤ v.toNat → v.toNat ≤ 65535 →
        exec (.frameLengthWrite t v) s = .next
          { s with
            timers := updAt s.timers t (fun x => { x with pendingLength := v.toNat, pendingValid := true })
            mgmt := s.mgmt.moved (Reg.frameLength t).addr }) ∧
      (v.toNat = 0 ∨ 65535 < v.toNat → exec (.frameLengthWrite t v) s = .next (failed (.frameLength t) .arg))) ∧
    (s.TakesWord (Reg.clockSource t).addr →
      (v.toNat < 18 ∨ (v.toNat = 18 ∧ t ≠ 0) → (s.timer t).state = .stopped →
        ∃ c : ClockSource, c.code = v.toNat ∧
          exec (.clockSourceWrite t v) s = .next
            { s with
              timers := updAt s.timers t (fun x => { x with clock := c })
              mgmt := s.mgmt.moved (Reg.clockSource t).addr }) ∧
      (v.toNat < 18 ∨ (v.toNat = 18 ∧ t ≠ 0) → (s.timer t).state ≠ .stopped →
        exec (.clockSourceWrite t v) s = .next (failed (.clockSource t) .busy)) ∧
      (18 < v.toNat ∨ (v.toNat = 18 ∧ t = 0) → exec (.clockSourceWrite t v) s = .next (failed (.clockSource t) .arg))) ∧
    (s.TakesWord (Reg.syncMode t).addr →
      (v.toNat < 3 → (s.timer t).state = .stopped →
        ∃ m : SyncMode, m.code = v.toNat ∧
          exec (.syncModeWrite t v) s = .next
            { s with
              timers := updAt s.timers t (fun x => { x with sync := m })
              mgmt := s.mgmt.moved (Reg.syncMode t).addr }) ∧
      (v.toNat < 3 → (s.timer t).state ≠ .stopped →
        exec (.syncModeWrite t v) s = .next (failed (.syncMode t) .busy)) ∧
      (3 ≤ v.toNat → exec (.syncModeWrite t v) s = .next (failed (.syncMode t) .arg)))

/-- Writes of a window select, the age tap, the handshake limit and the drain limit; and what a select does: its pin
is high exactly while it names a stream whose window is open. -/
def Obligations.SelectTapAndLimitWrites : Prop :=
  (∀ (s : State) (w : Fin 4), s.winPin w = true ↔ ∃ n, cell s.winSelect w = some n ∧ s.windowOpen n = true) ∧
  ∀ (s : State) (v : Word),
    let failed (r : Reg) : State := { s with mgmt := s.mgmt.failed r.addr .arg }
    (∀ w : Fin 4, s.TakesWord (Reg.winSelect w).addr →
      (∀ n : StreamId, v.toNat = n.val →
        exec (.winSelectWrite w v) s = .next
          { s with winSelect := updAt s.winSelect w (fun _ => some n), mgmt := s.mgmt.moved (Reg.winSelect w).addr }) ∧
      (v.toNat = 16 →
        exec (.winSelectWrite w v) s = .next
          { s with winSelect := updAt s.winSelect w (fun _ => none), mgmt := s.mgmt.moved (Reg.winSelect w).addr }) ∧
      (16 < v.toNat → exec (.winSelectWrite w v) s = .next (failed (.winSelect w)))) ∧
    (s.TakesWord Reg.ageTap.addr →
      (∀ k : Tap, v.toNat = k.val →
        exec (.ageTapWrite v) s = .next { s with ageTap := k, mgmt := s.mgmt.moved Reg.ageTap.addr }) ∧
      (16 ≤ v.toNat → exec (.ageTapWrite v) s = .next (failed .ageTap))) ∧
    (s.TakesWord Reg.handshakeLimit.addr →
      (1 ≤ v.toNat → v.toNat ≤ 65535 →
        exec (.handshakeLimitWrite v) s = .next
          { s with nt := { s.nt with limit := v.toNat }, mgmt := s.mgmt.moved Reg.handshakeLimit.addr }) ∧
      (v.toNat = 0 ∨ 65535 < v.toNat → exec (.handshakeLimitWrite v) s = .next (failed .handshakeLimit))) ∧
    (s.TakesWord Reg.drainLimit.addr →
      (v.toNat ≤ 65535 →
        exec (.drainLimitWrite v) s = .next
          { s with dev := { s.dev with drainLimit := v.toNat }, mgmt := s.mgmt.moved Reg.drainLimit.addr }) ∧
      (65535 < v.toNat → exec (.drainLimitWrite v) s = .next (failed .drainLimit)))

/-- A write of a notice setting: a number in its range replaces that one setting and leaves every other setting, every
cause set and the handshake as they are; any other number is ARG. -/
def Obligations.NoticeConfigWrites : Prop :=
  ∀ (s : State) (f : NoticeSetting) (v : Word), s.TakesWord f.addr →
    (v.toNat ≤ settingMost f →
      ∃ nt : Notices, nt.setting f = v.toNat ∧ (∀ g, g ≠ f → nt.setting g = s.nt.setting g) ∧
        (∀ x, (cell nt.sources x).causes = (cell s.nt.sources x).causes) ∧ nt.queue = s.nt.queue ∧
        nt.port = s.nt.port ∧ nt.hold = s.nt.hold ∧ nt.timer = s.nt.timer ∧ nt.limit = s.nt.limit ∧
        exec (.noticeConfigWrite f v) s = .next { s with nt := nt, mgmt := s.mgmt.moved f.addr }) ∧
    (settingMost f < v.toNat → exec (.noticeConfigWrite f v) s = .next { s with mgmt := s.mgmt.failed f.addr .arg })

/-- A word written to a cause register removes, under ONE_CLEARS, the causes written with 1, and under DIRECT replaces
the set with the source's causes written with 1; nothing else changes. Which cause each position names is written out
for every source as 12.3 tabulates it. That both rows are a write which the clear style in force governs is the model's
choice (log 14). -/
def Obligations.CauseRegisterWrites : Prop :=
  let causes (x : NoticeId) : List Cause :=
    if x.val < 16 then [.credit, .refused, .overflow, .expired, .memerr]
    else if x.val < 20 then [.wrap, .syncMissed]
    else if x.val = 20 then [.storeLack, .orderLack, .dataLack]
    else if x.val = 21 then [.hsOverflow, .timeout, .spurious]
    else if x.val = 22 then [.malformed, .stray]
    else [.rejected, .drainTimeout, .mgmtFrame]
  (∀ (x : NoticeId) (i : Nat) (c : Cause), (causes x)[i]? = some c → c.bit.toNat = 2 ^ i) ∧
  ∀ (s : State) (x : NoticeId) (v : Word) (c : Instr), s.TakesWord (Reg.cause x).addr →
    (c = .causeClear x v ∨ c = .causeWriteDirect x v) →
    ∃ cs : CauseSet,
      exec c s = .next
        { s with
          nt := { s.nt with sources := updAt s.nt.sources x (fun q => { q with causes := cs }) }
          mgmt := s.mgmt.moved (Reg.cause x).addr } ∧
      ∀ i < 5, cs.getLsbD i =
        match s.nt.clearStyle with
        | .oneClears => (cell s.nt.sources x).causes.getLsbD i && !v.getLsbD i
        | .direct => v.getLsbD i && decide (i < (causes x).length)

/-! ### Commands (12.4) -/

/-- INSTALL carries the staging entry into the list whole, or is rejected with nothing changed there; REMOVE makes an
entry invalid and keeps its other fields. -/
def Obligations.InstallAndRemove : Prop :=
  ∀ (s : State) (i : Fin 32), s.TakesWord commandAddr →
    (s.staging.pageBase.toNat ≤ s.staging.pageLimit.toNat →
      ∃ t, exec (.install i) s = .next t ∧
        Ends
          { s with
            matchList := updAt s.matchList i (fun _ => { valid := true, rule := s.staging })
            mgmt := s.mgmt.resulted .accepted } [] t) ∧
    (s.staging.pageLimit.toNat < s.staging.pageBase.toNat →
      ∃ t, exec (.install i) s = .next t ∧
        Judged { s with mgmt := s.mgmt.resulted .refusedArg } [.occur { source := 23, cause := .rejected }] t) ∧
    (∃ t, exec (.remove i) s = .next t ∧
      Ends
        { s with
          matchList := updAt s.matchList i (fun m => { m with valid := false })
          mgmt := s.mgmt.resulted .accepted } [] t)

/-- APPLY_NOW applies every selected valid pending set and nothing else, and is refused in DRAINING; DISCARD_PENDING
copies the live set over every selected pending set. -/
def Obligations.ApplyAndDiscard : Prop :=
  ∀ (s : State) (mask : StreamMask), s.TakesWord commandAddr →
    (s.dev.mode ≠ .draining →
      ∃ t, exec (.applyNow mask) s = .next t ∧
        Ends
          { s with
            streams := mapAll s.streams (fun n st =>
              if mask.getLsbD n.val = true ∧ st.pendingValid = true then
                { st with live := st.pend, pendingValid := false } else st)
            mgmt := s.mgmt.resulted .accepted } [] t) ∧
    (s.dev.mode = .draining → exec (.applyNow mask) s = .next { s with mgmt := s.mgmt.resulted .refusedBusy }) ∧
    exec (.discardPending mask) s = .next
      { s with
        streams := mapAll s.streams (fun n st =>
          if mask.getLsbD n.val = true then { st with pend := st.live, pendingValid := false } else st)
        mgmt := s.mgmt.resulted .accepted }

/-- STREAM_ON and STREAM_OFF set the mode of every selected stream; SET_MODE sets the device mode outside DRAINING and
is refused BUSY in it; a code that names neither BYPASS nor REGULATE is refused ARG. That in DRAINING BUSY comes
before ARG is the model's deduction (log 13). -/
def Obligations.ModeCommands : Prop :=
  ∀ s : State, s.TakesWord commandAddr →
    (∀ mask : StreamMask, ∃ t, exec (.streamOn mask) s = .next t ∧
      Ends
        { s with
          streams := mapAll s.streams (fun n st => if mask.getLsbD n.val = true then { st with mode := .on } else st)
          mgmt := s.mgmt.resulted .accepted } [] t) ∧
    (∀ mask : StreamMask, ∃ t, exec (.streamOff mask) s = .next t ∧
      Ends
        { s with
          streams := mapAll s.streams (fun n st => if mask.getLsbD n.val = true then { st with mode := .off } else st)
          mgmt := s.mgmt.resulted .accepted } [] t) ∧
    (∀ code : BitVec 2, s.dev.mode ≠ .draining → code.toNat < 2 → ∃ t, exec (.setMode code) s = .next t ∧
      Ends
        { s with
          dev := { s.dev with mode := if code = 0 then .bypass else .regulate }
          mgmt := s.mgmt.resulted .accepted } [] t) ∧
    (∀ code : BitVec 2, s.dev.mode ≠ .draining → 2 ≤ code.toNat →
      exec (.setMode code) s = .next { s with mgmt := s.mgmt.resulted .refusedArg }) ∧
    (∀ code : BitVec 2, s.dev.mode = .draining →
      exec (.setMode code) s = .next { s with mgmt := s.mgmt.resulted .refusedBusy })

/-- START, STOP, RESTART and START together with RESTART at every selected timer, at one event. -/
def Obligations.TimerCommands : Prop :=
  ∀ (s : State) (mask : TimerMask), s.TakesWord commandAddr →
    let started (x : Timer) : Timer :=
      { x with state := if x.state = .stopped then (if x.sync = .free then .running else .armed) else x.state }
    let hit (t : TimerId) : TimerHit := if mask.getLsbD t.val = true then .frame .restart else .none
    let told : Mgmt := s.mgmt.resulted .accepted
    (∃ t, exec (.start mask) s = .next t ∧
      Ends
        { s with timers := mapAll s.timers (fun i x => if mask.getLsbD i.val = true then started x else x), mgmt := told }
        [] t) ∧
    (∃ t, exec (.stop mask) s = .next t ∧
      Ends
        { s with
          timers := mapAll s.timers (fun i x => if mask.getLsbD i.val = true then { x with state := .stopped } else x)
          mgmt := told } [] t) ∧
    (∃ t, exec (.restart mask) s = .next t ∧ Ends { s.timersHit hit with mgmt := told } (s.hitNotices hit) t) ∧
    (∃ t, exec (.startRestart mask) s = .next t ∧
      Ends
        { s.timersHit hit with
          timers := mapAll (s.timersHit hit).timers (fun i x => if mask.getLsbD i.val = true then started x else x)
          mgmt := told } (s.hitNotices hit) t)

/-- SNAPSHOT copies one instant of the stream into the snapshot record, and with the clear flag zeroes its counters; a
command word or timer operation that names nothing is refused ARG and changes nothing else. -/
def Obligations.SnapshotAndUnknownCommands : Prop :=
  ∀ s : State, s.TakesWord commandAddr →
    (∀ (n : StreamId) (clear : Bool),
      exec (.snapshot n clear) s = .next
        { s with
          streams := updAt s.streams n (fun st => { st with counters := if clear then Counters.zero else st.counters })
          mgmt :=
            { s.mgmt.resulted .accepted with
              snapshot :=
                { valid := true, stream := n, counters := (s.stream n).counters, credit := (s.stream n).credit,
                  queueLength := (s.queue n).length, issueCount := (s.stream n).issueCount } } }) ∧
    (∀ word : Word, (Instr.unknownCommand word).wellFormed = true →
      exec (.unknownCommand word) s = .next { s with mgmt := s.mgmt.resulted .refusedArg }) ∧
    (∀ (mask : TimerMask) (op : BitVec 3), (Instr.timerCmdUnknownOperation mask op).wellFormed = true →
      exec (.timerCmdUnknownOperation mask op) s = .next { s with mgmt := s.mgmt.resulted .refusedArg })

/-! ### Words (12.3, 12.4) -/

/-- The command that a command's word spells is that command, with every operand at every value. -/
def Obligations.CommandWordsDecode : Prop :=
  ∀ c : Command, c.wellFormed = true → decodeCommand (encodeCommand c) = c

/-- A word is read by its address and, at the command register, by its code and its operand bits alone: every writable
register stands at the word address that 12.3 gives it and at no other, the command register at 001h, the addresses that
its tables do not name are unmapped, and the bits that a command does not use are ignored. -/
def Obligations.WordsAreReadByTheirBits : Prop :=
  let stands (a : Nat) (r : Reg) : Prop :=
    r.addr = BitVec.ofNat 16 a ∧ ∀ b : WordAddr, addrKind b = .writable r ↔ b.toNat = a
  stands 0x003 (.notice .clearStyle) ∧ stands 0x004 (.notice .threshold) ∧ stands 0x006 .ageTap ∧
  stands 0x007 .drainLimit ∧ stands 0x008 .handshakeLimit ∧ (∀ w : Fin 4, stands (0x009 + w.val) (.winSelect w)) ∧
  (∀ (i : Nat) (f : StagingField),
    [.sourceValue, .sourceMask, .kindFilter, .pageBase, .pageLimit, .stream][i]? = some f →
      stands (0x020 + i) (.staging f)) ∧
  (∀ (n : StreamId) (i : Nat) (p : Param),
    [.policy, .timer, .windowStart, .windowEnd, .reload, .creditMode, .cap, .holdLimit, .issueLimit, .ageLimit,
      .ageAction, .priority][i]? = some p → stands (0x100 + 0x40 * n.val + i) (.pending n p)) ∧
  (∀ x : TimerId,
    stands (0x502 + 8 * x.val) (.frameLength x) ∧ stands (0x505 + 8 * x.val) (.clockSource x) ∧
    stands (0x506 + 8 * x.val) (.syncMode x)) ∧
  (∀ x : NoticeId,
    stands (0x600 + 8 * x.val) (.cause x) ∧ stands (0x601 + 8 * x.val) (.notice (.enable x)) ∧
    stands (0x602 + 8 * x.val) (.notice (.level x)) ∧ stands (0x603 + 8 * x.val) (.notice (.route x)) ∧
    stands (0x604 + 8 * x.val) (.notice (.notifyAfter x))) ∧
  (∀ r : Reg, addrKind r.addr = .writable r) ∧ (∀ r r' : Reg, r.addr = r'.addr → r = r') ∧
  (∀ b : WordAddr, addrKind b = .command ↔ b.toNat = 0x001) ∧
  (∀ b : WordAddr,
    let a := b.toNat
    let ofStream := (a - 0x100) % 0x40
    addrKind b ≠ .unmapped ↔
      a ≤ 0x00F ∨ (0x020 ≤ a ∧ a ≤ 0x025) ∨ (0x040 ≤ a ∧ a ≤ 0x0BF) ∨
      (0x100 ≤ a ∧ a ≤ 0x4FF ∧
        (ofStream ≤ 0x0B ∨ (0x10 ≤ ofStream ∧ ofStream ≤ 0x1B) ∨ (0x20 ≤ ofStream ∧ ofStream ≤ 0x23) ∨
          (0x28 ≤ ofStream ∧ ofStream ≤ 0x2E))) ∨
      (0x500 ≤ a ∧ a ≤ 0x51F ∧ (a - 0x500) % 8 ≤ 6) ∨ (0x600 ≤ a ∧ a ≤ 0x6BF ∧ (a - 0x600) % 8 ≤ 4) ∨
      (0x700 ≤ a ∧ a ≤ 0x702) ∨ (0x780 ≤ a ∧ a ≤ 0x78A)) ∧
  (∀ w : Word,
      let code := w.toNat / 2 ^ 24
      let index := w.toNat % 32
      let mask : StreamMask := BitVec.ofNat 16 w.toNat
      decodeCommand w =
        if code = 1 then .install (Fin.ofNat 32 index)
        else if code = 2 then .remove (Fin.ofNat 32 index)
        else if code = 3 then .applyNow mask
        else if code = 4 then .discardPending mask
        else if code = 5 then .streamOn mask
        else if code = 6 then .streamOff mask
        else if code = 7 then .timerCmd (BitVec.ofNat 4 w.toNat) (BitVec.ofNat 3 (w.toNat / 2 ^ 8))
        else if code = 8 then .setMode (BitVec.ofNat 2 w.toNat)
        else if code = 9 then .warmReset
        else if code = 10 then .snapshot (Fin.ofNat 16 w.toNat) (w.toNat / 2 ^ 8 % 2 == 1)
        else .unknown w)

/-! ### What every step keeps -/

/-- No step leaves a judgement unmade: after it no shortfall of credit stands unreported, what lacks on UP is noted, a
response on DOWN is a held one, no presentation is due, no answer is ready for an empty answer stage, no offer stands
that R32 lets be taken and no drain that is over, unless cold reset is in force, or the step was the start of a warm reset
that left nothing to wait for (Begun), which the next step completes; and while cold reset is in force, every block
stays at its cold values. -/
def Obligations.StepsLeaveNoJudgementUnmade : Prop :=
  (∀ s s' : State, s.StoreMatches → (s.inReset = false → s.Settled ∨ s.Begun) → step s = .next s' →
    s'.inReset = false →
    s'.Settled ∨
      (s'.Begun ∧ s.Settled ∧ s.dev.mode ≠ .draining ∧ ∃ c rest, s.pending = c :: rest ∧ AsksReset c)) ∧
  (∀ s s' : State, s.heldCold → step s = .next s' → s'.heldCold)

/-- Credit, parameters and timer numbers stay in their ranges, a valid match entry's pages stay ordered, the store is
empty in the drain, whose timer runs in it alone, and while pending-valid is clear the pending set stays a copy of the
live set. The timebase's divider moves by one, modulo 32768, at a tick row that is none of the present period's untaken
ticks and whose tap ticks in the next period, cold reset not in force; COLD_RESET sets it to 0; nothing else changes it.
The divider's form and that the rows do nothing elsewhere are the model's choice and deduction (logs 6 and 3). -/
def Obligations.StepsKeepTheRanges : Prop :=
  (∀ s s' : State, step s = .next s' →
    (s.streamsInRange → s'.streamsInRange) ∧ (s.TimersInRange → s'.TimersInRange) ∧
    (s.pagesOrdered → s'.pagesOrdered) ∧ (s.DrainLawful → s'.DrainLawful) ∧ (s.pendingCopies → s'.pendingCopies)) ∧
  (∀ (s t : State) (c : Instr), exec c s = .next t →
    let moves : Prop := s.inReset = false ∧ s.beginsPeriod c
    (moves → t.timebase = s.timebase + 1) ∧ (c = .coldReset → t.timebase = 0) ∧
      (¬ moves → c ≠ .coldReset → t.timebase = s.timebase))

/-- The handshake queue stays lawful: at most 8 entries, never two for one source, EVREQ high only while it is not
empty; and the presentation hold stays one of IDLE alone. -/
def Obligations.StepsKeepTheHandshakeQueue : Prop :=
  ∀ s s' : State, s.nt.Lawful → step s = .next s' → s'.nt.Lawful

/-- No pool grows past its capacity. -/
def Obligations.StepsKeepTheCapacities : Prop :=
  ∀ s s' : State, s.WithinCapacity → step s = .next s' → s'.WithinCapacity

/-- Store records and QUEUED entries stay in one-to-one correspondence, in take order, and each stream's issue count
stays the number of its ISSUED entries. -/
def Obligations.StepsKeepTheCorrespondence : Prop :=
  ∀ s s' : State, s.StoreMatches → step s = .next s' →
    s'.StoreMatches ∧ (s.issueCountsExact → s'.issueCountsExact)

/-- The allocations of the buffer stay those of the WRITE records and of a WRITE in the issue stage, so that the beats
in use are theirs. -/
def Obligations.StepsKeepTheBufferUse : Prop :=
  (∀ s s' : State, s.StoreMatches → s.BufferMatches → step s = .next s' → s'.BufferMatches) ∧
  (∀ s : State, s.BufferMatches → s.bufferExact)

/-- In every source list ABANDONED entries stay before all others and ISSUED entries before QUEUED ones. -/
def Obligations.StepsKeepTheListOrder : Prop :=
  ∀ s s' : State, s.StoreMatches → s.listsOrdered → step s = .next s' → s'.listsOrdered

/-- Every record that must be granted before an urgent record stays urgent with it, and a record at age 0 is urgent. -/
def Obligations.StepsKeepTheUrgencyClosed : Prop :=
  ∀ s s' : State, s.urgencyClosed → s.expiredUrgent → step s = .next s' → s'.urgencyClosed ∧ s'.expiredUrgent

/-- All of these hold right after reset. -/
def Obligations.ResetMeetsEveryLaw : Prop :=
  let s := State.reset
  s.Ready ∧ s.streamsInRange ∧ s.TimersInRange ∧ s.pagesOrdered ∧ s.DrainLawful ∧ s.pendingCopies ∧ s.nt.Lawful ∧
  s.WithinCapacity ∧ s.StoreMatches ∧ s.issueCountsExact ∧ s.BufferMatches ∧ s.listsOrdered ∧ s.urgencyClosed ∧
  s.expiredUrgent ∧ s.heldCold

/-- Answers leave in take order: a step that puts an answer into the answer stage, empty before it or emptied by UP's
take at it, takes the answer from its source's answer front, before which only ABANDONED entries of the source stand,
and that entry leaves the table or becomes ABANDONED. A source without an answer front is answered only where the step
takes a request of it, which is REFUSED, and after it the source has none again. -/
def Obligations.AnswersComeFromTheFront : Prop :=
  ∀ (s s' : State) (a : Answer), s.Ready → s.StoreMatches → step s = .next s' →
    s.answer.stage = none ∨ (∃ rest, s.pending = .answerTake :: rest) → s'.answer.stage = some a → s'.inReset = false →
    (∃ f, s.answerFront a.source = some f ∧
      (∀ e ∈ s.order, e.source = a.source → e.draw < f.draw → e.state = .abandoned) ∧
      ∀ e ∈ s'.order, e.draw = f.draw → e.state = .abandoned) ∨
    (s.answerFront a.source = none ∧ a.status = .refused ∧ s'.up.draws = s.up.draws + 1 ∧
      ∀ e ∈ s'.order, e.source = a.source → e.state = .abandoned)
end

