-- ==== Sys2Proof/Laws/State.lean ====
section
/-! SUPPORT. One lemma per field of State per update, and the same for the tables: no later proof unfolds a record
update. -/

namespace Sys2Proof.Machine

/-! ### setPending -/

@[simp] theorem State.setPending_pending (s : State) (v : List Instr) : (s.setPending v).pending = v := rfl
@[simp] theorem State.setPending_inReset (s : State) (v : List Instr) : (s.setPending v).inReset = s.inReset := rfl
@[simp] theorem State.setPending_matchList (s : State) (v : List Instr) : (s.setPending v).matchList = s.matchList := rfl
@[simp] theorem State.setPending_staging (s : State) (v : List Instr) : (s.setPending v).staging = s.staging := rfl
@[simp] theorem State.setPending_streams (s : State) (v : List Instr) : (s.setPending v).streams = s.streams := rfl
@[simp] theorem State.setPending_up (s : State) (v : List Instr) : (s.setPending v).up = s.up := rfl
@[simp] theorem State.setPending_store (s : State) (v : List Instr) : (s.setPending v).store = s.store := rfl
@[simp] theorem State.setPending_wdb (s : State) (v : List Instr) : (s.setPending v).wdb = s.wdb := rfl
@[simp] theorem State.setPending_order (s : State) (v : List Instr) : (s.setPending v).order = s.order := rfl
@[simp] theorem State.setPending_answer (s : State) (v : List Instr) : (s.setPending v).answer = s.answer := rfl
@[simp] theorem State.setPending_downResp (s : State) (v : List Instr) : (s.setPending v).downResp = s.downResp := rfl
@[simp] theorem State.setPending_issue (s : State) (v : List Instr) : (s.setPending v).issue = s.issue := rfl
@[simp] theorem State.setPending_ageTap (s : State) (v : List Instr) : (s.setPending v).ageTap = s.ageTap := rfl
@[simp] theorem State.setPending_timebase (s : State) (v : List Instr) : (s.setPending v).timebase = s.timebase := rfl
@[simp] theorem State.setPending_timerTicks (s : State) (v : List Instr) : (s.setPending v).timerTicks = s.timerTicks := rfl
@[simp] theorem State.setPending_ageDue (s : State) (v : List Instr) : (s.setPending v).ageDue = s.ageDue := rfl
@[simp] theorem State.setPending_timers (s : State) (v : List Instr) : (s.setPending v).timers = s.timers := rfl
@[simp] theorem State.setPending_deliveries (s : State) (v : List Instr) : (s.setPending v).deliveries = s.deliveries := rfl
@[simp] theorem State.setPending_cascades (s : State) (v : List Instr) : (s.setPending v).cascades = s.cascades := rfl
@[simp] theorem State.setPending_winSelect (s : State) (v : List Instr) : (s.setPending v).winSelect = s.winSelect := rfl
@[simp] theorem State.setPending_nt (s : State) (v : List Instr) : (s.setPending v).nt = s.nt := rfl
@[simp] theorem State.setPending_dev (s : State) (v : List Instr) : (s.setPending v).dev = s.dev := rfl
@[simp] theorem State.setPending_mgmt (s : State) (v : List Instr) : (s.setPending v).mgmt = s.mgmt := rfl
@[simp] theorem State.setPending_freeCount (s : State) (v : List Instr) : (s.setPending v).freeCount = s.freeCount := rfl

/-! ### setInReset -/

@[simp] theorem State.setInReset_pending (s : State) (v : Bool) : (s.setInReset v).pending = s.pending := rfl
@[simp] theorem State.setInReset_inReset (s : State) (v : Bool) : (s.setInReset v).inReset = v := rfl
@[simp] theorem State.setInReset_matchList (s : State) (v : Bool) : (s.setInReset v).matchList = s.matchList := rfl
@[simp] theorem State.setInReset_staging (s : State) (v : Bool) : (s.setInReset v).staging = s.staging := rfl
@[simp] theorem State.setInReset_streams (s : State) (v : Bool) : (s.setInReset v).streams = s.streams := rfl
@[simp] theorem State.setInReset_up (s : State) (v : Bool) : (s.setInReset v).up = s.up := rfl
@[simp] theorem State.setInReset_store (s : State) (v : Bool) : (s.setInReset v).store = s.store := rfl
@[simp] theorem State.setInReset_wdb (s : State) (v : Bool) : (s.setInReset v).wdb = s.wdb := rfl
@[simp] theorem State.setInReset_order (s : State) (v : Bool) : (s.setInReset v).order = s.order := rfl
@[simp] theorem State.setInReset_answer (s : State) (v : Bool) : (s.setInReset v).answer = s.answer := rfl
@[simp] theorem State.setInReset_downResp (s : State) (v : Bool) : (s.setInReset v).downResp = s.downResp := rfl
@[simp] theorem State.setInReset_issue (s : State) (v : Bool) : (s.setInReset v).issue = s.issue := rfl
@[simp] theorem State.setInReset_ageTap (s : State) (v : Bool) : (s.setInReset v).ageTap = s.ageTap := rfl
@[simp] theorem State.setInReset_timebase (s : State) (v : Bool) : (s.setInReset v).timebase = s.timebase := rfl
@[simp] theorem State.setInReset_timerTicks (s : State) (v : Bool) : (s.setInReset v).timerTicks = s.timerTicks := rfl
@[simp] theorem State.setInReset_ageDue (s : State) (v : Bool) : (s.setInReset v).ageDue = s.ageDue := rfl
@[simp] theorem State.setInReset_timers (s : State) (v : Bool) : (s.setInReset v).timers = s.timers := rfl
@[simp] theorem State.setInReset_deliveries (s : State) (v : Bool) : (s.setInReset v).deliveries = s.deliveries := rfl
@[simp] theorem State.setInReset_cascades (s : State) (v : Bool) : (s.setInReset v).cascades = s.cascades := rfl
@[simp] theorem State.setInReset_winSelect (s : State) (v : Bool) : (s.setInReset v).winSelect = s.winSelect := rfl
@[simp] theorem State.setInReset_nt (s : State) (v : Bool) : (s.setInReset v).nt = s.nt := rfl
@[simp] theorem State.setInReset_dev (s : State) (v : Bool) : (s.setInReset v).dev = s.dev := rfl
@[simp] theorem State.setInReset_mgmt (s : State) (v : Bool) : (s.setInReset v).mgmt = s.mgmt := rfl
@[simp] theorem State.setInReset_freeCount (s : State) (v : Bool) : (s.setInReset v).freeCount = s.freeCount := rfl

/-! ### setMatchList -/

@[simp] theorem State.setMatchList_pending (s : State) (v : Vector MatchEntry 32) : (s.setMatchList v).pending = s.pending := rfl
@[simp] theorem State.setMatchList_inReset (s : State) (v : Vector MatchEntry 32) : (s.setMatchList v).inReset = s.inReset := rfl
@[simp] theorem State.setMatchList_matchList (s : State) (v : Vector MatchEntry 32) : (s.setMatchList v).matchList = v := rfl
@[simp] theorem State.setMatchList_staging (s : State) (v : Vector MatchEntry 32) : (s.setMatchList v).staging = s.staging := rfl
@[simp] theorem State.setMatchList_streams (s : State) (v : Vector MatchEntry 32) : (s.setMatchList v).streams = s.streams := rfl
@[simp] theorem State.setMatchList_up (s : State) (v : Vector MatchEntry 32) : (s.setMatchList v).up = s.up := rfl
@[simp] theorem State.setMatchList_store (s : State) (v : Vector MatchEntry 32) : (s.setMatchList v).store = s.store := rfl
@[simp] theorem State.setMatchList_wdb (s : State) (v : Vector MatchEntry 32) : (s.setMatchList v).wdb = s.wdb := rfl
@[simp] theorem State.setMatchList_order (s : State) (v : Vector MatchEntry 32) : (s.setMatchList v).order = s.order := rfl
@[simp] theorem State.setMatchList_answer (s : State) (v : Vector MatchEntry 32) : (s.setMatchList v).answer = s.answer := rfl
@[simp] theorem State.setMatchList_downResp (s : State) (v : Vector MatchEntry 32) : (s.setMatchList v).downResp = s.downResp := rfl
@[simp] theorem State.setMatchList_issue (s : State) (v : Vector MatchEntry 32) : (s.setMatchList v).issue = s.issue := rfl
@[simp] theorem State.setMatchList_ageTap (s : State) (v : Vector MatchEntry 32) : (s.setMatchList v).ageTap = s.ageTap := rfl
@[simp] theorem State.setMatchList_timebase (s : State) (v : Vector MatchEntry 32) : (s.setMatchList v).timebase = s.timebase := rfl
@[simp] theorem State.setMatchList_timerTicks (s : State) (v : Vector MatchEntry 32) : (s.setMatchList v).timerTicks = s.timerTicks := rfl
@[simp] theorem State.setMatchList_ageDue (s : State) (v : Vector MatchEntry 32) : (s.setMatchList v).ageDue = s.ageDue := rfl
@[simp] theorem State.setMatchList_timers (s : State) (v : Vector MatchEntry 32) : (s.setMatchList v).timers = s.timers := rfl
@[simp] theorem State.setMatchList_deliveries (s : State) (v : Vector MatchEntry 32) : (s.setMatchList v).deliveries = s.deliveries := rfl
@[simp] theorem State.setMatchList_cascades (s : State) (v : Vector MatchEntry 32) : (s.setMatchList v).cascades = s.cascades := rfl
@[simp] theorem State.setMatchList_winSelect (s : State) (v : Vector MatchEntry 32) : (s.setMatchList v).winSelect = s.winSelect := rfl
@[simp] theorem State.setMatchList_nt (s : State) (v : Vector MatchEntry 32) : (s.setMatchList v).nt = s.nt := rfl
@[simp] theorem State.setMatchList_dev (s : State) (v : Vector MatchEntry 32) : (s.setMatchList v).dev = s.dev := rfl
@[simp] theorem State.setMatchList_mgmt (s : State) (v : Vector MatchEntry 32) : (s.setMatchList v).mgmt = s.mgmt := rfl
@[simp] theorem State.setMatchList_freeCount (s : State) (v : Vector MatchEntry 32) : (s.setMatchList v).freeCount = s.freeCount := rfl

/-! ### setStaging -/

@[simp] theorem State.setStaging_pending (s : State) (v : MatchRule) : (s.setStaging v).pending = s.pending := rfl
@[simp] theorem State.setStaging_inReset (s : State) (v : MatchRule) : (s.setStaging v).inReset = s.inReset := rfl
@[simp] theorem State.setStaging_matchList (s : State) (v : MatchRule) : (s.setStaging v).matchList = s.matchList := rfl
@[simp] theorem State.setStaging_staging (s : State) (v : MatchRule) : (s.setStaging v).staging = v := rfl
@[simp] theorem State.setStaging_streams (s : State) (v : MatchRule) : (s.setStaging v).streams = s.streams := rfl
@[simp] theorem State.setStaging_up (s : State) (v : MatchRule) : (s.setStaging v).up = s.up := rfl
@[simp] theorem State.setStaging_store (s : State) (v : MatchRule) : (s.setStaging v).store = s.store := rfl
@[simp] theorem State.setStaging_wdb (s : State) (v : MatchRule) : (s.setStaging v).wdb = s.wdb := rfl
@[simp] theorem State.setStaging_order (s : State) (v : MatchRule) : (s.setStaging v).order = s.order := rfl
@[simp] theorem State.setStaging_answer (s : State) (v : MatchRule) : (s.setStaging v).answer = s.answer := rfl
@[simp] theorem State.setStaging_downResp (s : State) (v : MatchRule) : (s.setStaging v).downResp = s.downResp := rfl
@[simp] theorem State.setStaging_issue (s : State) (v : MatchRule) : (s.setStaging v).issue = s.issue := rfl
@[simp] theorem State.setStaging_ageTap (s : State) (v : MatchRule) : (s.setStaging v).ageTap = s.ageTap := rfl
@[simp] theorem State.setStaging_timebase (s : State) (v : MatchRule) : (s.setStaging v).timebase = s.timebase := rfl
@[simp] theorem State.setStaging_timerTicks (s : State) (v : MatchRule) : (s.setStaging v).timerTicks = s.timerTicks := rfl
@[simp] theorem State.setStaging_ageDue (s : State) (v : MatchRule) : (s.setStaging v).ageDue = s.ageDue := rfl
@[simp] theorem State.setStaging_timers (s : State) (v : MatchRule) : (s.setStaging v).timers = s.timers := rfl
@[simp] theorem State.setStaging_deliveries (s : State) (v : MatchRule) : (s.setStaging v).deliveries = s.deliveries := rfl
@[simp] theorem State.setStaging_cascades (s : State) (v : MatchRule) : (s.setStaging v).cascades = s.cascades := rfl
@[simp] theorem State.setStaging_winSelect (s : State) (v : MatchRule) : (s.setStaging v).winSelect = s.winSelect := rfl
@[simp] theorem State.setStaging_nt (s : State) (v : MatchRule) : (s.setStaging v).nt = s.nt := rfl
@[simp] theorem State.setStaging_dev (s : State) (v : MatchRule) : (s.setStaging v).dev = s.dev := rfl
@[simp] theorem State.setStaging_mgmt (s : State) (v : MatchRule) : (s.setStaging v).mgmt = s.mgmt := rfl
@[simp] theorem State.setStaging_freeCount (s : State) (v : MatchRule) : (s.setStaging v).freeCount = s.freeCount := rfl

/-! ### setStreams -/

@[simp] theorem State.setStreams_pending (s : State) (v : Vector Stream 16) : (s.setStreams v).pending = s.pending := rfl
@[simp] theorem State.setStreams_inReset (s : State) (v : Vector Stream 16) : (s.setStreams v).inReset = s.inReset := rfl
@[simp] theorem State.setStreams_matchList (s : State) (v : Vector Stream 16) : (s.setStreams v).matchList = s.matchList := rfl
@[simp] theorem State.setStreams_staging (s : State) (v : Vector Stream 16) : (s.setStreams v).staging = s.staging := rfl
@[simp] theorem State.setStreams_streams (s : State) (v : Vector Stream 16) : (s.setStreams v).streams = v := rfl
@[simp] theorem State.setStreams_up (s : State) (v : Vector Stream 16) : (s.setStreams v).up = s.up := rfl
@[simp] theorem State.setStreams_store (s : State) (v : Vector Stream 16) : (s.setStreams v).store = s.store := rfl
@[simp] theorem State.setStreams_wdb (s : State) (v : Vector Stream 16) : (s.setStreams v).wdb = s.wdb := rfl
@[simp] theorem State.setStreams_order (s : State) (v : Vector Stream 16) : (s.setStreams v).order = s.order := rfl
@[simp] theorem State.setStreams_answer (s : State) (v : Vector Stream 16) : (s.setStreams v).answer = s.answer := rfl
@[simp] theorem State.setStreams_downResp (s : State) (v : Vector Stream 16) : (s.setStreams v).downResp = s.downResp := rfl
@[simp] theorem State.setStreams_issue (s : State) (v : Vector Stream 16) : (s.setStreams v).issue = s.issue := rfl
@[simp] theorem State.setStreams_ageTap (s : State) (v : Vector Stream 16) : (s.setStreams v).ageTap = s.ageTap := rfl
@[simp] theorem State.setStreams_timebase (s : State) (v : Vector Stream 16) : (s.setStreams v).timebase = s.timebase := rfl
@[simp] theorem State.setStreams_timerTicks (s : State) (v : Vector Stream 16) : (s.setStreams v).timerTicks = s.timerTicks := rfl
@[simp] theorem State.setStreams_ageDue (s : State) (v : Vector Stream 16) : (s.setStreams v).ageDue = s.ageDue := rfl
@[simp] theorem State.setStreams_timers (s : State) (v : Vector Stream 16) : (s.setStreams v).timers = s.timers := rfl
@[simp] theorem State.setStreams_deliveries (s : State) (v : Vector Stream 16) : (s.setStreams v).deliveries = s.deliveries := rfl
@[simp] theorem State.setStreams_cascades (s : State) (v : Vector Stream 16) : (s.setStreams v).cascades = s.cascades := rfl
@[simp] theorem State.setStreams_winSelect (s : State) (v : Vector Stream 16) : (s.setStreams v).winSelect = s.winSelect := rfl
@[simp] theorem State.setStreams_nt (s : State) (v : Vector Stream 16) : (s.setStreams v).nt = s.nt := rfl
@[simp] theorem State.setStreams_dev (s : State) (v : Vector Stream 16) : (s.setStreams v).dev = s.dev := rfl
@[simp] theorem State.setStreams_mgmt (s : State) (v : Vector Stream 16) : (s.setStreams v).mgmt = s.mgmt := rfl
@[simp] theorem State.setStreams_freeCount (s : State) (v : Vector Stream 16) : (s.setStreams v).freeCount = s.freeCount := rfl

/-! ### setUp -/

@[simp] theorem State.setUp_pending (s : State) (v : UpPort) : (s.setUp v).pending = s.pending := rfl
@[simp] theorem State.setUp_inReset (s : State) (v : UpPort) : (s.setUp v).inReset = s.inReset := rfl
@[simp] theorem State.setUp_matchList (s : State) (v : UpPort) : (s.setUp v).matchList = s.matchList := rfl
@[simp] theorem State.setUp_staging (s : State) (v : UpPort) : (s.setUp v).staging = s.staging := rfl
@[simp] theorem State.setUp_streams (s : State) (v : UpPort) : (s.setUp v).streams = s.streams := rfl
@[simp] theorem State.setUp_up (s : State) (v : UpPort) : (s.setUp v).up = v := rfl
@[simp] theorem State.setUp_store (s : State) (v : UpPort) : (s.setUp v).store = s.store := rfl
@[simp] theorem State.setUp_wdb (s : State) (v : UpPort) : (s.setUp v).wdb = s.wdb := rfl
@[simp] theorem State.setUp_order (s : State) (v : UpPort) : (s.setUp v).order = s.order := rfl
@[simp] theorem State.setUp_answer (s : State) (v : UpPort) : (s.setUp v).answer = s.answer := rfl
@[simp] theorem State.setUp_downResp (s : State) (v : UpPort) : (s.setUp v).downResp = s.downResp := rfl
@[simp] theorem State.setUp_issue (s : State) (v : UpPort) : (s.setUp v).issue = s.issue := rfl
@[simp] theorem State.setUp_ageTap (s : State) (v : UpPort) : (s.setUp v).ageTap = s.ageTap := rfl
@[simp] theorem State.setUp_timebase (s : State) (v : UpPort) : (s.setUp v).timebase = s.timebase := rfl
@[simp] theorem State.setUp_timerTicks (s : State) (v : UpPort) : (s.setUp v).timerTicks = s.timerTicks := rfl
@[simp] theorem State.setUp_ageDue (s : State) (v : UpPort) : (s.setUp v).ageDue = s.ageDue := rfl
@[simp] theorem State.setUp_timers (s : State) (v : UpPort) : (s.setUp v).timers = s.timers := rfl
@[simp] theorem State.setUp_deliveries (s : State) (v : UpPort) : (s.setUp v).deliveries = s.deliveries := rfl
@[simp] theorem State.setUp_cascades (s : State) (v : UpPort) : (s.setUp v).cascades = s.cascades := rfl
@[simp] theorem State.setUp_winSelect (s : State) (v : UpPort) : (s.setUp v).winSelect = s.winSelect := rfl
@[simp] theorem State.setUp_nt (s : State) (v : UpPort) : (s.setUp v).nt = s.nt := rfl
@[simp] theorem State.setUp_dev (s : State) (v : UpPort) : (s.setUp v).dev = s.dev := rfl
@[simp] theorem State.setUp_mgmt (s : State) (v : UpPort) : (s.setUp v).mgmt = s.mgmt := rfl
@[simp] theorem State.setUp_freeCount (s : State) (v : UpPort) : (s.setUp v).freeCount = s.freeCount := rfl

/-! ### setStore -/

@[simp] theorem State.setStore_pending (s : State) (v : List StoreRec) : (s.setStore v).pending = s.pending := rfl
@[simp] theorem State.setStore_inReset (s : State) (v : List StoreRec) : (s.setStore v).inReset = s.inReset := rfl
@[simp] theorem State.setStore_matchList (s : State) (v : List StoreRec) : (s.setStore v).matchList = s.matchList := rfl
@[simp] theorem State.setStore_staging (s : State) (v : List StoreRec) : (s.setStore v).staging = s.staging := rfl
@[simp] theorem State.setStore_streams (s : State) (v : List StoreRec) : (s.setStore v).streams = s.streams := rfl
@[simp] theorem State.setStore_up (s : State) (v : List StoreRec) : (s.setStore v).up = s.up := rfl
@[simp] theorem State.setStore_store (s : State) (v : List StoreRec) : (s.setStore v).store = v := rfl
@[simp] theorem State.setStore_wdb (s : State) (v : List StoreRec) : (s.setStore v).wdb = s.wdb := rfl
@[simp] theorem State.setStore_order (s : State) (v : List StoreRec) : (s.setStore v).order = s.order := rfl
@[simp] theorem State.setStore_answer (s : State) (v : List StoreRec) : (s.setStore v).answer = s.answer := rfl
@[simp] theorem State.setStore_downResp (s : State) (v : List StoreRec) : (s.setStore v).downResp = s.downResp := rfl
@[simp] theorem State.setStore_issue (s : State) (v : List StoreRec) : (s.setStore v).issue = s.issue := rfl
@[simp] theorem State.setStore_ageTap (s : State) (v : List StoreRec) : (s.setStore v).ageTap = s.ageTap := rfl
@[simp] theorem State.setStore_timebase (s : State) (v : List StoreRec) : (s.setStore v).timebase = s.timebase := rfl
@[simp] theorem State.setStore_timerTicks (s : State) (v : List StoreRec) : (s.setStore v).timerTicks = s.timerTicks := rfl
@[simp] theorem State.setStore_ageDue (s : State) (v : List StoreRec) : (s.setStore v).ageDue = s.ageDue := rfl
@[simp] theorem State.setStore_timers (s : State) (v : List StoreRec) : (s.setStore v).timers = s.timers := rfl
@[simp] theorem State.setStore_deliveries (s : State) (v : List StoreRec) : (s.setStore v).deliveries = s.deliveries := rfl
@[simp] theorem State.setStore_cascades (s : State) (v : List StoreRec) : (s.setStore v).cascades = s.cascades := rfl
@[simp] theorem State.setStore_winSelect (s : State) (v : List StoreRec) : (s.setStore v).winSelect = s.winSelect := rfl
@[simp] theorem State.setStore_nt (s : State) (v : List StoreRec) : (s.setStore v).nt = s.nt := rfl
@[simp] theorem State.setStore_dev (s : State) (v : List StoreRec) : (s.setStore v).dev = s.dev := rfl
@[simp] theorem State.setStore_mgmt (s : State) (v : List StoreRec) : (s.setStore v).mgmt = s.mgmt := rfl
@[simp] theorem State.setStore_freeCount (s : State) (v : List StoreRec) : (s.setStore v).freeCount = s.freeCount := rfl

/-! ### setWdb -/

@[simp] theorem State.setWdb_pending (s : State) (v : List Alloc) : (s.setWdb v).pending = s.pending := rfl
@[simp] theorem State.setWdb_inReset (s : State) (v : List Alloc) : (s.setWdb v).inReset = s.inReset := rfl
@[simp] theorem State.setWdb_matchList (s : State) (v : List Alloc) : (s.setWdb v).matchList = s.matchList := rfl
@[simp] theorem State.setWdb_staging (s : State) (v : List Alloc) : (s.setWdb v).staging = s.staging := rfl
@[simp] theorem State.setWdb_streams (s : State) (v : List Alloc) : (s.setWdb v).streams = s.streams := rfl
@[simp] theorem State.setWdb_up (s : State) (v : List Alloc) : (s.setWdb v).up = s.up := rfl
@[simp] theorem State.setWdb_store (s : State) (v : List Alloc) : (s.setWdb v).store = s.store := rfl
@[simp] theorem State.setWdb_wdb (s : State) (v : List Alloc) : (s.setWdb v).wdb = v := rfl
@[simp] theorem State.setWdb_order (s : State) (v : List Alloc) : (s.setWdb v).order = s.order := rfl
@[simp] theorem State.setWdb_answer (s : State) (v : List Alloc) : (s.setWdb v).answer = s.answer := rfl
@[simp] theorem State.setWdb_downResp (s : State) (v : List Alloc) : (s.setWdb v).downResp = s.downResp := rfl
@[simp] theorem State.setWdb_issue (s : State) (v : List Alloc) : (s.setWdb v).issue = s.issue := rfl
@[simp] theorem State.setWdb_ageTap (s : State) (v : List Alloc) : (s.setWdb v).ageTap = s.ageTap := rfl
@[simp] theorem State.setWdb_timebase (s : State) (v : List Alloc) : (s.setWdb v).timebase = s.timebase := rfl
@[simp] theorem State.setWdb_timerTicks (s : State) (v : List Alloc) : (s.setWdb v).timerTicks = s.timerTicks := rfl
@[simp] theorem State.setWdb_ageDue (s : State) (v : List Alloc) : (s.setWdb v).ageDue = s.ageDue := rfl
@[simp] theorem State.setWdb_timers (s : State) (v : List Alloc) : (s.setWdb v).timers = s.timers := rfl
@[simp] theorem State.setWdb_deliveries (s : State) (v : List Alloc) : (s.setWdb v).deliveries = s.deliveries := rfl
@[simp] theorem State.setWdb_cascades (s : State) (v : List Alloc) : (s.setWdb v).cascades = s.cascades := rfl
@[simp] theorem State.setWdb_winSelect (s : State) (v : List Alloc) : (s.setWdb v).winSelect = s.winSelect := rfl
@[simp] theorem State.setWdb_nt (s : State) (v : List Alloc) : (s.setWdb v).nt = s.nt := rfl
@[simp] theorem State.setWdb_dev (s : State) (v : List Alloc) : (s.setWdb v).dev = s.dev := rfl
@[simp] theorem State.setWdb_mgmt (s : State) (v : List Alloc) : (s.setWdb v).mgmt = s.mgmt := rfl
@[simp] theorem State.setWdb_freeCount (s : State) (v : List Alloc) : (s.setWdb v).freeCount = s.freeCount := rfl

/-! ### setOrder -/

@[simp] theorem State.setOrder_pending (s : State) (v : List OrderEntry) : (s.setOrder v).pending = s.pending := rfl
@[simp] theorem State.setOrder_inReset (s : State) (v : List OrderEntry) : (s.setOrder v).inReset = s.inReset := rfl
@[simp] theorem State.setOrder_matchList (s : State) (v : List OrderEntry) : (s.setOrder v).matchList = s.matchList := rfl
@[simp] theorem State.setOrder_staging (s : State) (v : List OrderEntry) : (s.setOrder v).staging = s.staging := rfl
@[simp] theorem State.setOrder_streams (s : State) (v : List OrderEntry) : (s.setOrder v).streams = s.streams := rfl
@[simp] theorem State.setOrder_up (s : State) (v : List OrderEntry) : (s.setOrder v).up = s.up := rfl
@[simp] theorem State.setOrder_store (s : State) (v : List OrderEntry) : (s.setOrder v).store = s.store := rfl
@[simp] theorem State.setOrder_wdb (s : State) (v : List OrderEntry) : (s.setOrder v).wdb = s.wdb := rfl
@[simp] theorem State.setOrder_order (s : State) (v : List OrderEntry) : (s.setOrder v).order = v := rfl
@[simp] theorem State.setOrder_answer (s : State) (v : List OrderEntry) : (s.setOrder v).answer = s.answer := rfl
@[simp] theorem State.setOrder_downResp (s : State) (v : List OrderEntry) : (s.setOrder v).downResp = s.downResp := rfl
@[simp] theorem State.setOrder_issue (s : State) (v : List OrderEntry) : (s.setOrder v).issue = s.issue := rfl
@[simp] theorem State.setOrder_ageTap (s : State) (v : List OrderEntry) : (s.setOrder v).ageTap = s.ageTap := rfl
@[simp] theorem State.setOrder_timebase (s : State) (v : List OrderEntry) : (s.setOrder v).timebase = s.timebase := rfl
@[simp] theorem State.setOrder_timerTicks (s : State) (v : List OrderEntry) : (s.setOrder v).timerTicks = s.timerTicks := rfl
@[simp] theorem State.setOrder_ageDue (s : State) (v : List OrderEntry) : (s.setOrder v).ageDue = s.ageDue := rfl
@[simp] theorem State.setOrder_timers (s : State) (v : List OrderEntry) : (s.setOrder v).timers = s.timers := rfl
@[simp] theorem State.setOrder_deliveries (s : State) (v : List OrderEntry) : (s.setOrder v).deliveries = s.deliveries := rfl
@[simp] theorem State.setOrder_cascades (s : State) (v : List OrderEntry) : (s.setOrder v).cascades = s.cascades := rfl
@[simp] theorem State.setOrder_winSelect (s : State) (v : List OrderEntry) : (s.setOrder v).winSelect = s.winSelect := rfl
@[simp] theorem State.setOrder_nt (s : State) (v : List OrderEntry) : (s.setOrder v).nt = s.nt := rfl
@[simp] theorem State.setOrder_dev (s : State) (v : List OrderEntry) : (s.setOrder v).dev = s.dev := rfl
@[simp] theorem State.setOrder_mgmt (s : State) (v : List OrderEntry) : (s.setOrder v).mgmt = s.mgmt := rfl
@[simp] theorem State.setOrder_freeCount (s : State) (v : List OrderEntry) : (s.setOrder v).freeCount = s.freeCount := rfl

/-! ### setAnswer -/

@[simp] theorem State.setAnswer_pending (s : State) (v : AnswerBlock) : (s.setAnswer v).pending = s.pending := rfl
@[simp] theorem State.setAnswer_inReset (s : State) (v : AnswerBlock) : (s.setAnswer v).inReset = s.inReset := rfl
@[simp] theorem State.setAnswer_matchList (s : State) (v : AnswerBlock) : (s.setAnswer v).matchList = s.matchList := rfl
@[simp] theorem State.setAnswer_staging (s : State) (v : AnswerBlock) : (s.setAnswer v).staging = s.staging := rfl
@[simp] theorem State.setAnswer_streams (s : State) (v : AnswerBlock) : (s.setAnswer v).streams = s.streams := rfl
@[simp] theorem State.setAnswer_up (s : State) (v : AnswerBlock) : (s.setAnswer v).up = s.up := rfl
@[simp] theorem State.setAnswer_store (s : State) (v : AnswerBlock) : (s.setAnswer v).store = s.store := rfl
@[simp] theorem State.setAnswer_wdb (s : State) (v : AnswerBlock) : (s.setAnswer v).wdb = s.wdb := rfl
@[simp] theorem State.setAnswer_order (s : State) (v : AnswerBlock) : (s.setAnswer v).order = s.order := rfl
@[simp] theorem State.setAnswer_answer (s : State) (v : AnswerBlock) : (s.setAnswer v).answer = v := rfl
@[simp] theorem State.setAnswer_downResp (s : State) (v : AnswerBlock) : (s.setAnswer v).downResp = s.downResp := rfl
@[simp] theorem State.setAnswer_issue (s : State) (v : AnswerBlock) : (s.setAnswer v).issue = s.issue := rfl
@[simp] theorem State.setAnswer_ageTap (s : State) (v : AnswerBlock) : (s.setAnswer v).ageTap = s.ageTap := rfl
@[simp] theorem State.setAnswer_timebase (s : State) (v : AnswerBlock) : (s.setAnswer v).timebase = s.timebase := rfl
@[simp] theorem State.setAnswer_timerTicks (s : State) (v : AnswerBlock) : (s.setAnswer v).timerTicks = s.timerTicks := rfl
@[simp] theorem State.setAnswer_ageDue (s : State) (v : AnswerBlock) : (s.setAnswer v).ageDue = s.ageDue := rfl
@[simp] theorem State.setAnswer_timers (s : State) (v : AnswerBlock) : (s.setAnswer v).timers = s.timers := rfl
@[simp] theorem State.setAnswer_deliveries (s : State) (v : AnswerBlock) : (s.setAnswer v).deliveries = s.deliveries := rfl
@[simp] theorem State.setAnswer_cascades (s : State) (v : AnswerBlock) : (s.setAnswer v).cascades = s.cascades := rfl
@[simp] theorem State.setAnswer_winSelect (s : State) (v : AnswerBlock) : (s.setAnswer v).winSelect = s.winSelect := rfl
@[simp] theorem State.setAnswer_nt (s : State) (v : AnswerBlock) : (s.setAnswer v).nt = s.nt := rfl
@[simp] theorem State.setAnswer_dev (s : State) (v : AnswerBlock) : (s.setAnswer v).dev = s.dev := rfl
@[simp] theorem State.setAnswer_mgmt (s : State) (v : AnswerBlock) : (s.setAnswer v).mgmt = s.mgmt := rfl
@[simp] theorem State.setAnswer_freeCount (s : State) (v : AnswerBlock) : (s.setAnswer v).freeCount = s.freeCount := rfl

/-! ### setDownResp -/

@[simp] theorem State.setDownResp_pending (s : State) (v : Option Response) : (s.setDownResp v).pending = s.pending := rfl
@[simp] theorem State.setDownResp_inReset (s : State) (v : Option Response) : (s.setDownResp v).inReset = s.inReset := rfl
@[simp] theorem State.setDownResp_matchList (s : State) (v : Option Response) : (s.setDownResp v).matchList = s.matchList := rfl
@[simp] theorem State.setDownResp_staging (s : State) (v : Option Response) : (s.setDownResp v).staging = s.staging := rfl
@[simp] theorem State.setDownResp_streams (s : State) (v : Option Response) : (s.setDownResp v).streams = s.streams := rfl
@[simp] theorem State.setDownResp_up (s : State) (v : Option Response) : (s.setDownResp v).up = s.up := rfl
@[simp] theorem State.setDownResp_store (s : State) (v : Option Response) : (s.setDownResp v).store = s.store := rfl
@[simp] theorem State.setDownResp_wdb (s : State) (v : Option Response) : (s.setDownResp v).wdb = s.wdb := rfl
@[simp] theorem State.setDownResp_order (s : State) (v : Option Response) : (s.setDownResp v).order = s.order := rfl
@[simp] theorem State.setDownResp_answer (s : State) (v : Option Response) : (s.setDownResp v).answer = s.answer := rfl
@[simp] theorem State.setDownResp_downResp (s : State) (v : Option Response) : (s.setDownResp v).downResp = v := rfl
@[simp] theorem State.setDownResp_issue (s : State) (v : Option Response) : (s.setDownResp v).issue = s.issue := rfl
@[simp] theorem State.setDownResp_ageTap (s : State) (v : Option Response) : (s.setDownResp v).ageTap = s.ageTap := rfl
@[simp] theorem State.setDownResp_timebase (s : State) (v : Option Response) : (s.setDownResp v).timebase = s.timebase := rfl
@[simp] theorem State.setDownResp_timerTicks (s : State) (v : Option Response) : (s.setDownResp v).timerTicks = s.timerTicks := rfl
@[simp] theorem State.setDownResp_ageDue (s : State) (v : Option Response) : (s.setDownResp v).ageDue = s.ageDue := rfl
@[simp] theorem State.setDownResp_timers (s : State) (v : Option Response) : (s.setDownResp v).timers = s.timers := rfl
@[simp] theorem State.setDownResp_deliveries (s : State) (v : Option Response) : (s.setDownResp v).deliveries = s.deliveries := rfl
@[simp] theorem State.setDownResp_cascades (s : State) (v : Option Response) : (s.setDownResp v).cascades = s.cascades := rfl
@[simp] theorem State.setDownResp_winSelect (s : State) (v : Option Response) : (s.setDownResp v).winSelect = s.winSelect := rfl
@[simp] theorem State.setDownResp_nt (s : State) (v : Option Response) : (s.setDownResp v).nt = s.nt := rfl
@[simp] theorem State.setDownResp_dev (s : State) (v : Option Response) : (s.setDownResp v).dev = s.dev := rfl
@[simp] theorem State.setDownResp_mgmt (s : State) (v : Option Response) : (s.setDownResp v).mgmt = s.mgmt := rfl
@[simp] theorem State.setDownResp_freeCount (s : State) (v : Option Response) : (s.setDownResp v).freeCount = s.freeCount := rfl

/-! ### setIssue -/

@[simp] theorem State.setIssue_pending (s : State) (v : IssueBlock) : (s.setIssue v).pending = s.pending := rfl
@[simp] theorem State.setIssue_inReset (s : State) (v : IssueBlock) : (s.setIssue v).inReset = s.inReset := rfl
@[simp] theorem State.setIssue_matchList (s : State) (v : IssueBlock) : (s.setIssue v).matchList = s.matchList := rfl
@[simp] theorem State.setIssue_staging (s : State) (v : IssueBlock) : (s.setIssue v).staging = s.staging := rfl
@[simp] theorem State.setIssue_streams (s : State) (v : IssueBlock) : (s.setIssue v).streams = s.streams := rfl
@[simp] theorem State.setIssue_up (s : State) (v : IssueBlock) : (s.setIssue v).up = s.up := rfl
@[simp] theorem State.setIssue_store (s : State) (v : IssueBlock) : (s.setIssue v).store = s.store := rfl
@[simp] theorem State.setIssue_wdb (s : State) (v : IssueBlock) : (s.setIssue v).wdb = s.wdb := rfl
@[simp] theorem State.setIssue_order (s : State) (v : IssueBlock) : (s.setIssue v).order = s.order := rfl
@[simp] theorem State.setIssue_answer (s : State) (v : IssueBlock) : (s.setIssue v).answer = s.answer := rfl
@[simp] theorem State.setIssue_downResp (s : State) (v : IssueBlock) : (s.setIssue v).downResp = s.downResp := rfl
@[simp] theorem State.setIssue_issue (s : State) (v : IssueBlock) : (s.setIssue v).issue = v := rfl
@[simp] theorem State.setIssue_ageTap (s : State) (v : IssueBlock) : (s.setIssue v).ageTap = s.ageTap := rfl
@[simp] theorem State.setIssue_timebase (s : State) (v : IssueBlock) : (s.setIssue v).timebase = s.timebase := rfl
@[simp] theorem State.setIssue_timerTicks (s : State) (v : IssueBlock) : (s.setIssue v).timerTicks = s.timerTicks := rfl
@[simp] theorem State.setIssue_ageDue (s : State) (v : IssueBlock) : (s.setIssue v).ageDue = s.ageDue := rfl
@[simp] theorem State.setIssue_timers (s : State) (v : IssueBlock) : (s.setIssue v).timers = s.timers := rfl
@[simp] theorem State.setIssue_deliveries (s : State) (v : IssueBlock) : (s.setIssue v).deliveries = s.deliveries := rfl
@[simp] theorem State.setIssue_cascades (s : State) (v : IssueBlock) : (s.setIssue v).cascades = s.cascades := rfl
@[simp] theorem State.setIssue_winSelect (s : State) (v : IssueBlock) : (s.setIssue v).winSelect = s.winSelect := rfl
@[simp] theorem State.setIssue_nt (s : State) (v : IssueBlock) : (s.setIssue v).nt = s.nt := rfl
@[simp] theorem State.setIssue_dev (s : State) (v : IssueBlock) : (s.setIssue v).dev = s.dev := rfl
@[simp] theorem State.setIssue_mgmt (s : State) (v : IssueBlock) : (s.setIssue v).mgmt = s.mgmt := rfl
@[simp] theorem State.setIssue_freeCount (s : State) (v : IssueBlock) : (s.setIssue v).freeCount = s.freeCount := rfl

/-! ### setAgeTap -/

@[simp] theorem State.setAgeTap_pending (s : State) (v : Tap) : (s.setAgeTap v).pending = s.pending := rfl
@[simp] theorem State.setAgeTap_inReset (s : State) (v : Tap) : (s.setAgeTap v).inReset = s.inReset := rfl
@[simp] theorem State.setAgeTap_matchList (s : State) (v : Tap) : (s.setAgeTap v).matchList = s.matchList := rfl
@[simp] theorem State.setAgeTap_staging (s : State) (v : Tap) : (s.setAgeTap v).staging = s.staging := rfl
@[simp] theorem State.setAgeTap_streams (s : State) (v : Tap) : (s.setAgeTap v).streams = s.streams := rfl
@[simp] theorem State.setAgeTap_up (s : State) (v : Tap) : (s.setAgeTap v).up = s.up := rfl
@[simp] theorem State.setAgeTap_store (s : State) (v : Tap) : (s.setAgeTap v).store = s.store := rfl
@[simp] theorem State.setAgeTap_wdb (s : State) (v : Tap) : (s.setAgeTap v).wdb = s.wdb := rfl
@[simp] theorem State.setAgeTap_order (s : State) (v : Tap) : (s.setAgeTap v).order = s.order := rfl
@[simp] theorem State.setAgeTap_answer (s : State) (v : Tap) : (s.setAgeTap v).answer = s.answer := rfl
@[simp] theorem State.setAgeTap_downResp (s : State) (v : Tap) : (s.setAgeTap v).downResp = s.downResp := rfl
@[simp] theorem State.setAgeTap_issue (s : State) (v : Tap) : (s.setAgeTap v).issue = s.issue := rfl
@[simp] theorem State.setAgeTap_ageTap (s : State) (v : Tap) : (s.setAgeTap v).ageTap = v := rfl
@[simp] theorem State.setAgeTap_timebase (s : State) (v : Tap) : (s.setAgeTap v).timebase = s.timebase := rfl
@[simp] theorem State.setAgeTap_timerTicks (s : State) (v : Tap) : (s.setAgeTap v).timerTicks = s.timerTicks := rfl
@[simp] theorem State.setAgeTap_ageDue (s : State) (v : Tap) : (s.setAgeTap v).ageDue = s.ageDue := rfl
@[simp] theorem State.setAgeTap_timers (s : State) (v : Tap) : (s.setAgeTap v).timers = s.timers := rfl
@[simp] theorem State.setAgeTap_deliveries (s : State) (v : Tap) : (s.setAgeTap v).deliveries = s.deliveries := rfl
@[simp] theorem State.setAgeTap_cascades (s : State) (v : Tap) : (s.setAgeTap v).cascades = s.cascades := rfl
@[simp] theorem State.setAgeTap_winSelect (s : State) (v : Tap) : (s.setAgeTap v).winSelect = s.winSelect := rfl
@[simp] theorem State.setAgeTap_nt (s : State) (v : Tap) : (s.setAgeTap v).nt = s.nt := rfl
@[simp] theorem State.setAgeTap_dev (s : State) (v : Tap) : (s.setAgeTap v).dev = s.dev := rfl
@[simp] theorem State.setAgeTap_mgmt (s : State) (v : Tap) : (s.setAgeTap v).mgmt = s.mgmt := rfl
@[simp] theorem State.setAgeTap_freeCount (s : State) (v : Tap) : (s.setAgeTap v).freeCount = s.freeCount := rfl

/-! ### setTimebase -/

@[simp] theorem State.setTimebase_pending (s : State) (v : BitVec 15) : (s.setTimebase v).pending = s.pending := rfl
@[simp] theorem State.setTimebase_inReset (s : State) (v : BitVec 15) : (s.setTimebase v).inReset = s.inReset := rfl
@[simp] theorem State.setTimebase_matchList (s : State) (v : BitVec 15) : (s.setTimebase v).matchList = s.matchList := rfl
@[simp] theorem State.setTimebase_staging (s : State) (v : BitVec 15) : (s.setTimebase v).staging = s.staging := rfl
@[simp] theorem State.setTimebase_streams (s : State) (v : BitVec 15) : (s.setTimebase v).streams = s.streams := rfl
@[simp] theorem State.setTimebase_up (s : State) (v : BitVec 15) : (s.setTimebase v).up = s.up := rfl
@[simp] theorem State.setTimebase_store (s : State) (v : BitVec 15) : (s.setTimebase v).store = s.store := rfl
@[simp] theorem State.setTimebase_wdb (s : State) (v : BitVec 15) : (s.setTimebase v).wdb = s.wdb := rfl
@[simp] theorem State.setTimebase_order (s : State) (v : BitVec 15) : (s.setTimebase v).order = s.order := rfl
@[simp] theorem State.setTimebase_answer (s : State) (v : BitVec 15) : (s.setTimebase v).answer = s.answer := rfl
@[simp] theorem State.setTimebase_downResp (s : State) (v : BitVec 15) : (s.setTimebase v).downResp = s.downResp := rfl
@[simp] theorem State.setTimebase_issue (s : State) (v : BitVec 15) : (s.setTimebase v).issue = s.issue := rfl
@[simp] theorem State.setTimebase_ageTap (s : State) (v : BitVec 15) : (s.setTimebase v).ageTap = s.ageTap := rfl
@[simp] theorem State.setTimebase_timebase (s : State) (v : BitVec 15) : (s.setTimebase v).timebase = v := rfl
@[simp] theorem State.setTimebase_timerTicks (s : State) (v : BitVec 15) : (s.setTimebase v).timerTicks = s.timerTicks := rfl
@[simp] theorem State.setTimebase_ageDue (s : State) (v : BitVec 15) : (s.setTimebase v).ageDue = s.ageDue := rfl
@[simp] theorem State.setTimebase_timers (s : State) (v : BitVec 15) : (s.setTimebase v).timers = s.timers := rfl
@[simp] theorem State.setTimebase_deliveries (s : State) (v : BitVec 15) : (s.setTimebase v).deliveries = s.deliveries := rfl
@[simp] theorem State.setTimebase_cascades (s : State) (v : BitVec 15) : (s.setTimebase v).cascades = s.cascades := rfl
@[simp] theorem State.setTimebase_winSelect (s : State) (v : BitVec 15) : (s.setTimebase v).winSelect = s.winSelect := rfl
@[simp] theorem State.setTimebase_nt (s : State) (v : BitVec 15) : (s.setTimebase v).nt = s.nt := rfl
@[simp] theorem State.setTimebase_dev (s : State) (v : BitVec 15) : (s.setTimebase v).dev = s.dev := rfl
@[simp] theorem State.setTimebase_mgmt (s : State) (v : BitVec 15) : (s.setTimebase v).mgmt = s.mgmt := rfl
@[simp] theorem State.setTimebase_freeCount (s : State) (v : BitVec 15) : (s.setTimebase v).freeCount = s.freeCount := rfl

/-! ### setTimerTicks -/

@[simp] theorem State.setTimerTicks_pending (s : State) (v : Vector Bool 4) : (s.setTimerTicks v).pending = s.pending := rfl
@[simp] theorem State.setTimerTicks_inReset (s : State) (v : Vector Bool 4) : (s.setTimerTicks v).inReset = s.inReset := rfl
@[simp] theorem State.setTimerTicks_matchList (s : State) (v : Vector Bool 4) : (s.setTimerTicks v).matchList = s.matchList := rfl
@[simp] theorem State.setTimerTicks_staging (s : State) (v : Vector Bool 4) : (s.setTimerTicks v).staging = s.staging := rfl
@[simp] theorem State.setTimerTicks_streams (s : State) (v : Vector Bool 4) : (s.setTimerTicks v).streams = s.streams := rfl
@[simp] theorem State.setTimerTicks_up (s : State) (v : Vector Bool 4) : (s.setTimerTicks v).up = s.up := rfl
@[simp] theorem State.setTimerTicks_store (s : State) (v : Vector Bool 4) : (s.setTimerTicks v).store = s.store := rfl
@[simp] theorem State.setTimerTicks_wdb (s : State) (v : Vector Bool 4) : (s.setTimerTicks v).wdb = s.wdb := rfl
@[simp] theorem State.setTimerTicks_order (s : State) (v : Vector Bool 4) : (s.setTimerTicks v).order = s.order := rfl
@[simp] theorem State.setTimerTicks_answer (s : State) (v : Vector Bool 4) : (s.setTimerTicks v).answer = s.answer := rfl
@[simp] theorem State.setTimerTicks_downResp (s : State) (v : Vector Bool 4) : (s.setTimerTicks v).downResp = s.downResp := rfl
@[simp] theorem State.setTimerTicks_issue (s : State) (v : Vector Bool 4) : (s.setTimerTicks v).issue = s.issue := rfl
@[simp] theorem State.setTimerTicks_ageTap (s : State) (v : Vector Bool 4) : (s.setTimerTicks v).ageTap = s.ageTap := rfl
@[simp] theorem State.setTimerTicks_timebase (s : State) (v : Vector Bool 4) : (s.setTimerTicks v).timebase = s.timebase := rfl
@[simp] theorem State.setTimerTicks_timerTicks (s : State) (v : Vector Bool 4) : (s.setTimerTicks v).timerTicks = v := rfl
@[simp] theorem State.setTimerTicks_ageDue (s : State) (v : Vector Bool 4) : (s.setTimerTicks v).ageDue = s.ageDue := rfl
@[simp] theorem State.setTimerTicks_timers (s : State) (v : Vector Bool 4) : (s.setTimerTicks v).timers = s.timers := rfl
@[simp] theorem State.setTimerTicks_deliveries (s : State) (v : Vector Bool 4) : (s.setTimerTicks v).deliveries = s.deliveries := rfl
@[simp] theorem State.setTimerTicks_cascades (s : State) (v : Vector Bool 4) : (s.setTimerTicks v).cascades = s.cascades := rfl
@[simp] theorem State.setTimerTicks_winSelect (s : State) (v : Vector Bool 4) : (s.setTimerTicks v).winSelect = s.winSelect := rfl
@[simp] theorem State.setTimerTicks_nt (s : State) (v : Vector Bool 4) : (s.setTimerTicks v).nt = s.nt := rfl
@[simp] theorem State.setTimerTicks_dev (s : State) (v : Vector Bool 4) : (s.setTimerTicks v).dev = s.dev := rfl
@[simp] theorem State.setTimerTicks_mgmt (s : State) (v : Vector Bool 4) : (s.setTimerTicks v).mgmt = s.mgmt := rfl
@[simp] theorem State.setTimerTicks_freeCount (s : State) (v : Vector Bool 4) : (s.setTimerTicks v).freeCount = s.freeCount := rfl

/-! ### setAgeDue -/

@[simp] theorem State.setAgeDue_pending (s : State) (v : Bool) : (s.setAgeDue v).pending = s.pending := rfl
@[simp] theorem State.setAgeDue_inReset (s : State) (v : Bool) : (s.setAgeDue v).inReset = s.inReset := rfl
@[simp] theorem State.setAgeDue_matchList (s : State) (v : Bool) : (s.setAgeDue v).matchList = s.matchList := rfl
@[simp] theorem State.setAgeDue_staging (s : State) (v : Bool) : (s.setAgeDue v).staging = s.staging := rfl
@[simp] theorem State.setAgeDue_streams (s : State) (v : Bool) : (s.setAgeDue v).streams = s.streams := rfl
@[simp] theorem State.setAgeDue_up (s : State) (v : Bool) : (s.setAgeDue v).up = s.up := rfl
@[simp] theorem State.setAgeDue_store (s : State) (v : Bool) : (s.setAgeDue v).store = s.store := rfl
@[simp] theorem State.setAgeDue_wdb (s : State) (v : Bool) : (s.setAgeDue v).wdb = s.wdb := rfl
@[simp] theorem State.setAgeDue_order (s : State) (v : Bool) : (s.setAgeDue v).order = s.order := rfl
@[simp] theorem State.setAgeDue_answer (s : State) (v : Bool) : (s.setAgeDue v).answer = s.answer := rfl
@[simp] theorem State.setAgeDue_downResp (s : State) (v : Bool) : (s.setAgeDue v).downResp = s.downResp := rfl
@[simp] theorem State.setAgeDue_issue (s : State) (v : Bool) : (s.setAgeDue v).issue = s.issue := rfl
@[simp] theorem State.setAgeDue_ageTap (s : State) (v : Bool) : (s.setAgeDue v).ageTap = s.ageTap := rfl
@[simp] theorem State.setAgeDue_timebase (s : State) (v : Bool) : (s.setAgeDue v).timebase = s.timebase := rfl
@[simp] theorem State.setAgeDue_timerTicks (s : State) (v : Bool) : (s.setAgeDue v).timerTicks = s.timerTicks := rfl
@[simp] theorem State.setAgeDue_ageDue (s : State) (v : Bool) : (s.setAgeDue v).ageDue = v := rfl
@[simp] theorem State.setAgeDue_timers (s : State) (v : Bool) : (s.setAgeDue v).timers = s.timers := rfl
@[simp] theorem State.setAgeDue_deliveries (s : State) (v : Bool) : (s.setAgeDue v).deliveries = s.deliveries := rfl
@[simp] theorem State.setAgeDue_cascades (s : State) (v : Bool) : (s.setAgeDue v).cascades = s.cascades := rfl
@[simp] theorem State.setAgeDue_winSelect (s : State) (v : Bool) : (s.setAgeDue v).winSelect = s.winSelect := rfl
@[simp] theorem State.setAgeDue_nt (s : State) (v : Bool) : (s.setAgeDue v).nt = s.nt := rfl
@[simp] theorem State.setAgeDue_dev (s : State) (v : Bool) : (s.setAgeDue v).dev = s.dev := rfl
@[simp] theorem State.setAgeDue_mgmt (s : State) (v : Bool) : (s.setAgeDue v).mgmt = s.mgmt := rfl
@[simp] theorem State.setAgeDue_freeCount (s : State) (v : Bool) : (s.setAgeDue v).freeCount = s.freeCount := rfl

/-! ### setTimers -/

@[simp] theorem State.setTimers_pending (s : State) (v : Vector Timer 4) : (s.setTimers v).pending = s.pending := rfl
@[simp] theorem State.setTimers_inReset (s : State) (v : Vector Timer 4) : (s.setTimers v).inReset = s.inReset := rfl
@[simp] theorem State.setTimers_matchList (s : State) (v : Vector Timer 4) : (s.setTimers v).matchList = s.matchList := rfl
@[simp] theorem State.setTimers_staging (s : State) (v : Vector Timer 4) : (s.setTimers v).staging = s.staging := rfl
@[simp] theorem State.setTimers_streams (s : State) (v : Vector Timer 4) : (s.setTimers v).streams = s.streams := rfl
@[simp] theorem State.setTimers_up (s : State) (v : Vector Timer 4) : (s.setTimers v).up = s.up := rfl
@[simp] theorem State.setTimers_store (s : State) (v : Vector Timer 4) : (s.setTimers v).store = s.store := rfl
@[simp] theorem State.setTimers_wdb (s : State) (v : Vector Timer 4) : (s.setTimers v).wdb = s.wdb := rfl
@[simp] theorem State.setTimers_order (s : State) (v : Vector Timer 4) : (s.setTimers v).order = s.order := rfl
@[simp] theorem State.setTimers_answer (s : State) (v : Vector Timer 4) : (s.setTimers v).answer = s.answer := rfl
@[simp] theorem State.setTimers_downResp (s : State) (v : Vector Timer 4) : (s.setTimers v).downResp = s.downResp := rfl
@[simp] theorem State.setTimers_issue (s : State) (v : Vector Timer 4) : (s.setTimers v).issue = s.issue := rfl
@[simp] theorem State.setTimers_ageTap (s : State) (v : Vector Timer 4) : (s.setTimers v).ageTap = s.ageTap := rfl
@[simp] theorem State.setTimers_timebase (s : State) (v : Vector Timer 4) : (s.setTimers v).timebase = s.timebase := rfl
@[simp] theorem State.setTimers_timerTicks (s : State) (v : Vector Timer 4) : (s.setTimers v).timerTicks = s.timerTicks := rfl
@[simp] theorem State.setTimers_ageDue (s : State) (v : Vector Timer 4) : (s.setTimers v).ageDue = s.ageDue := rfl
@[simp] theorem State.setTimers_timers (s : State) (v : Vector Timer 4) : (s.setTimers v).timers = v := rfl
@[simp] theorem State.setTimers_deliveries (s : State) (v : Vector Timer 4) : (s.setTimers v).deliveries = s.deliveries := rfl
@[simp] theorem State.setTimers_cascades (s : State) (v : Vector Timer 4) : (s.setTimers v).cascades = s.cascades := rfl
@[simp] theorem State.setTimers_winSelect (s : State) (v : Vector Timer 4) : (s.setTimers v).winSelect = s.winSelect := rfl
@[simp] theorem State.setTimers_nt (s : State) (v : Vector Timer 4) : (s.setTimers v).nt = s.nt := rfl
@[simp] theorem State.setTimers_dev (s : State) (v : Vector Timer 4) : (s.setTimers v).dev = s.dev := rfl
@[simp] theorem State.setTimers_mgmt (s : State) (v : Vector Timer 4) : (s.setTimers v).mgmt = s.mgmt := rfl
@[simp] theorem State.setTimers_freeCount (s : State) (v : Vector Timer 4) : (s.setTimers v).freeCount = s.freeCount := rfl

/-! ### setDeliveries -/

@[simp] theorem State.setDeliveries_pending (s : State) (v : List Delivery) : (s.setDeliveries v).pending = s.pending := rfl
@[simp] theorem State.setDeliveries_inReset (s : State) (v : List Delivery) : (s.setDeliveries v).inReset = s.inReset := rfl
@[simp] theorem State.setDeliveries_matchList (s : State) (v : List Delivery) : (s.setDeliveries v).matchList = s.matchList := rfl
@[simp] theorem State.setDeliveries_staging (s : State) (v : List Delivery) : (s.setDeliveries v).staging = s.staging := rfl
@[simp] theorem State.setDeliveries_streams (s : State) (v : List Delivery) : (s.setDeliveries v).streams = s.streams := rfl
@[simp] theorem State.setDeliveries_up (s : State) (v : List Delivery) : (s.setDeliveries v).up = s.up := rfl
@[simp] theorem State.setDeliveries_store (s : State) (v : List Delivery) : (s.setDeliveries v).store = s.store := rfl
@[simp] theorem State.setDeliveries_wdb (s : State) (v : List Delivery) : (s.setDeliveries v).wdb = s.wdb := rfl
@[simp] theorem State.setDeliveries_order (s : State) (v : List Delivery) : (s.setDeliveries v).order = s.order := rfl
@[simp] theorem State.setDeliveries_answer (s : State) (v : List Delivery) : (s.setDeliveries v).answer = s.answer := rfl
@[simp] theorem State.setDeliveries_downResp (s : State) (v : List Delivery) : (s.setDeliveries v).downResp = s.downResp := rfl
@[simp] theorem State.setDeliveries_issue (s : State) (v : List Delivery) : (s.setDeliveries v).issue = s.issue := rfl
@[simp] theorem State.setDeliveries_ageTap (s : State) (v : List Delivery) : (s.setDeliveries v).ageTap = s.ageTap := rfl
@[simp] theorem State.setDeliveries_timebase (s : State) (v : List Delivery) : (s.setDeliveries v).timebase = s.timebase := rfl
@[simp] theorem State.setDeliveries_timerTicks (s : State) (v : List Delivery) : (s.setDeliveries v).timerTicks = s.timerTicks := rfl
@[simp] theorem State.setDeliveries_ageDue (s : State) (v : List Delivery) : (s.setDeliveries v).ageDue = s.ageDue := rfl
@[simp] theorem State.setDeliveries_timers (s : State) (v : List Delivery) : (s.setDeliveries v).timers = s.timers := rfl
@[simp] theorem State.setDeliveries_deliveries (s : State) (v : List Delivery) : (s.setDeliveries v).deliveries = v := rfl
@[simp] theorem State.setDeliveries_cascades (s : State) (v : List Delivery) : (s.setDeliveries v).cascades = s.cascades := rfl
@[simp] theorem State.setDeliveries_winSelect (s : State) (v : List Delivery) : (s.setDeliveries v).winSelect = s.winSelect := rfl
@[simp] theorem State.setDeliveries_nt (s : State) (v : List Delivery) : (s.setDeliveries v).nt = s.nt := rfl
@[simp] theorem State.setDeliveries_dev (s : State) (v : List Delivery) : (s.setDeliveries v).dev = s.dev := rfl
@[simp] theorem State.setDeliveries_mgmt (s : State) (v : List Delivery) : (s.setDeliveries v).mgmt = s.mgmt := rfl
@[simp] theorem State.setDeliveries_freeCount (s : State) (v : List Delivery) : (s.setDeliveries v).freeCount = s.freeCount := rfl

/-! ### setCascades -/

@[simp] theorem State.setCascades_pending (s : State) (v : Vector Nat 4) : (s.setCascades v).pending = s.pending := rfl
@[simp] theorem State.setCascades_inReset (s : State) (v : Vector Nat 4) : (s.setCascades v).inReset = s.inReset := rfl
@[simp] theorem State.setCascades_matchList (s : State) (v : Vector Nat 4) : (s.setCascades v).matchList = s.matchList := rfl
@[simp] theorem State.setCascades_staging (s : State) (v : Vector Nat 4) : (s.setCascades v).staging = s.staging := rfl
@[simp] theorem State.setCascades_streams (s : State) (v : Vector Nat 4) : (s.setCascades v).streams = s.streams := rfl
@[simp] theorem State.setCascades_up (s : State) (v : Vector Nat 4) : (s.setCascades v).up = s.up := rfl
@[simp] theorem State.setCascades_store (s : State) (v : Vector Nat 4) : (s.setCascades v).store = s.store := rfl
@[simp] theorem State.setCascades_wdb (s : State) (v : Vector Nat 4) : (s.setCascades v).wdb = s.wdb := rfl
@[simp] theorem State.setCascades_order (s : State) (v : Vector Nat 4) : (s.setCascades v).order = s.order := rfl
@[simp] theorem State.setCascades_answer (s : State) (v : Vector Nat 4) : (s.setCascades v).answer = s.answer := rfl
@[simp] theorem State.setCascades_downResp (s : State) (v : Vector Nat 4) : (s.setCascades v).downResp = s.downResp := rfl
@[simp] theorem State.setCascades_issue (s : State) (v : Vector Nat 4) : (s.setCascades v).issue = s.issue := rfl
@[simp] theorem State.setCascades_ageTap (s : State) (v : Vector Nat 4) : (s.setCascades v).ageTap = s.ageTap := rfl
@[simp] theorem State.setCascades_timebase (s : State) (v : Vector Nat 4) : (s.setCascades v).timebase = s.timebase := rfl
@[simp] theorem State.setCascades_timerTicks (s : State) (v : Vector Nat 4) : (s.setCascades v).timerTicks = s.timerTicks := rfl
@[simp] theorem State.setCascades_ageDue (s : State) (v : Vector Nat 4) : (s.setCascades v).ageDue = s.ageDue := rfl
@[simp] theorem State.setCascades_timers (s : State) (v : Vector Nat 4) : (s.setCascades v).timers = s.timers := rfl
@[simp] theorem State.setCascades_deliveries (s : State) (v : Vector Nat 4) : (s.setCascades v).deliveries = s.deliveries := rfl
@[simp] theorem State.setCascades_cascades (s : State) (v : Vector Nat 4) : (s.setCascades v).cascades = v := rfl
@[simp] theorem State.setCascades_winSelect (s : State) (v : Vector Nat 4) : (s.setCascades v).winSelect = s.winSelect := rfl
@[simp] theorem State.setCascades_nt (s : State) (v : Vector Nat 4) : (s.setCascades v).nt = s.nt := rfl
@[simp] theorem State.setCascades_dev (s : State) (v : Vector Nat 4) : (s.setCascades v).dev = s.dev := rfl
@[simp] theorem State.setCascades_mgmt (s : State) (v : Vector Nat 4) : (s.setCascades v).mgmt = s.mgmt := rfl
@[simp] theorem State.setCascades_freeCount (s : State) (v : Vector Nat 4) : (s.setCascades v).freeCount = s.freeCount := rfl

/-! ### setWinSelect -/

@[simp] theorem State.setWinSelect_pending (s : State) (v : Vector (Option StreamId) 4) : (s.setWinSelect v).pending = s.pending := rfl
@[simp] theorem State.setWinSelect_inReset (s : State) (v : Vector (Option StreamId) 4) : (s.setWinSelect v).inReset = s.inReset := rfl
@[simp] theorem State.setWinSelect_matchList (s : State) (v : Vector (Option StreamId) 4) : (s.setWinSelect v).matchList = s.matchList := rfl
@[simp] theorem State.setWinSelect_staging (s : State) (v : Vector (Option StreamId) 4) : (s.setWinSelect v).staging = s.staging := rfl
@[simp] theorem State.setWinSelect_streams (s : State) (v : Vector (Option StreamId) 4) : (s.setWinSelect v).streams = s.streams := rfl
@[simp] theorem State.setWinSelect_up (s : State) (v : Vector (Option StreamId) 4) : (s.setWinSelect v).up = s.up := rfl
@[simp] theorem State.setWinSelect_store (s : State) (v : Vector (Option StreamId) 4) : (s.setWinSelect v).store = s.store := rfl
@[simp] theorem State.setWinSelect_wdb (s : State) (v : Vector (Option StreamId) 4) : (s.setWinSelect v).wdb = s.wdb := rfl
@[simp] theorem State.setWinSelect_order (s : State) (v : Vector (Option StreamId) 4) : (s.setWinSelect v).order = s.order := rfl
@[simp] theorem State.setWinSelect_answer (s : State) (v : Vector (Option StreamId) 4) : (s.setWinSelect v).answer = s.answer := rfl
@[simp] theorem State.setWinSelect_downResp (s : State) (v : Vector (Option StreamId) 4) : (s.setWinSelect v).downResp = s.downResp := rfl
@[simp] theorem State.setWinSelect_issue (s : State) (v : Vector (Option StreamId) 4) : (s.setWinSelect v).issue = s.issue := rfl
@[simp] theorem State.setWinSelect_ageTap (s : State) (v : Vector (Option StreamId) 4) : (s.setWinSelect v).ageTap = s.ageTap := rfl
@[simp] theorem State.setWinSelect_timebase (s : State) (v : Vector (Option StreamId) 4) : (s.setWinSelect v).timebase = s.timebase := rfl
@[simp] theorem State.setWinSelect_timerTicks (s : State) (v : Vector (Option StreamId) 4) : (s.setWinSelect v).timerTicks = s.timerTicks := rfl
@[simp] theorem State.setWinSelect_ageDue (s : State) (v : Vector (Option StreamId) 4) : (s.setWinSelect v).ageDue = s.ageDue := rfl
@[simp] theorem State.setWinSelect_timers (s : State) (v : Vector (Option StreamId) 4) : (s.setWinSelect v).timers = s.timers := rfl
@[simp] theorem State.setWinSelect_deliveries (s : State) (v : Vector (Option StreamId) 4) : (s.setWinSelect v).deliveries = s.deliveries := rfl
@[simp] theorem State.setWinSelect_cascades (s : State) (v : Vector (Option StreamId) 4) : (s.setWinSelect v).cascades = s.cascades := rfl
@[simp] theorem State.setWinSelect_winSelect (s : State) (v : Vector (Option StreamId) 4) : (s.setWinSelect v).winSelect = v := rfl
@[simp] theorem State.setWinSelect_nt (s : State) (v : Vector (Option StreamId) 4) : (s.setWinSelect v).nt = s.nt := rfl
@[simp] theorem State.setWinSelect_dev (s : State) (v : Vector (Option StreamId) 4) : (s.setWinSelect v).dev = s.dev := rfl
@[simp] theorem State.setWinSelect_mgmt (s : State) (v : Vector (Option StreamId) 4) : (s.setWinSelect v).mgmt = s.mgmt := rfl
@[simp] theorem State.setWinSelect_freeCount (s : State) (v : Vector (Option StreamId) 4) : (s.setWinSelect v).freeCount = s.freeCount := rfl

/-! ### setNt -/

@[simp] theorem State.setNt_pending (s : State) (v : Notices) : (s.setNt v).pending = s.pending := rfl
@[simp] theorem State.setNt_inReset (s : State) (v : Notices) : (s.setNt v).inReset = s.inReset := rfl
@[simp] theorem State.setNt_matchList (s : State) (v : Notices) : (s.setNt v).matchList = s.matchList := rfl
@[simp] theorem State.setNt_staging (s : State) (v : Notices) : (s.setNt v).staging = s.staging := rfl
@[simp] theorem State.setNt_streams (s : State) (v : Notices) : (s.setNt v).streams = s.streams := rfl
@[simp] theorem State.setNt_up (s : State) (v : Notices) : (s.setNt v).up = s.up := rfl
@[simp] theorem State.setNt_store (s : State) (v : Notices) : (s.setNt v).store = s.store := rfl
@[simp] theorem State.setNt_wdb (s : State) (v : Notices) : (s.setNt v).wdb = s.wdb := rfl
@[simp] theorem State.setNt_order (s : State) (v : Notices) : (s.setNt v).order = s.order := rfl
@[simp] theorem State.setNt_answer (s : State) (v : Notices) : (s.setNt v).answer = s.answer := rfl
@[simp] theorem State.setNt_downResp (s : State) (v : Notices) : (s.setNt v).downResp = s.downResp := rfl
@[simp] theorem State.setNt_issue (s : State) (v : Notices) : (s.setNt v).issue = s.issue := rfl
@[simp] theorem State.setNt_ageTap (s : State) (v : Notices) : (s.setNt v).ageTap = s.ageTap := rfl
@[simp] theorem State.setNt_timebase (s : State) (v : Notices) : (s.setNt v).timebase = s.timebase := rfl
@[simp] theorem State.setNt_timerTicks (s : State) (v : Notices) : (s.setNt v).timerTicks = s.timerTicks := rfl
@[simp] theorem State.setNt_ageDue (s : State) (v : Notices) : (s.setNt v).ageDue = s.ageDue := rfl
@[simp] theorem State.setNt_timers (s : State) (v : Notices) : (s.setNt v).timers = s.timers := rfl
@[simp] theorem State.setNt_deliveries (s : State) (v : Notices) : (s.setNt v).deliveries = s.deliveries := rfl
@[simp] theorem State.setNt_cascades (s : State) (v : Notices) : (s.setNt v).cascades = s.cascades := rfl
@[simp] theorem State.setNt_winSelect (s : State) (v : Notices) : (s.setNt v).winSelect = s.winSelect := rfl
@[simp] theorem State.setNt_nt (s : State) (v : Notices) : (s.setNt v).nt = v := rfl
@[simp] theorem State.setNt_dev (s : State) (v : Notices) : (s.setNt v).dev = s.dev := rfl
@[simp] theorem State.setNt_mgmt (s : State) (v : Notices) : (s.setNt v).mgmt = s.mgmt := rfl
@[simp] theorem State.setNt_freeCount (s : State) (v : Notices) : (s.setNt v).freeCount = s.freeCount := rfl

/-! ### setDev -/

@[simp] theorem State.setDev_pending (s : State) (v : DeviceControl) : (s.setDev v).pending = s.pending := rfl
@[simp] theorem State.setDev_inReset (s : State) (v : DeviceControl) : (s.setDev v).inReset = s.inReset := rfl
@[simp] theorem State.setDev_matchList (s : State) (v : DeviceControl) : (s.setDev v).matchList = s.matchList := rfl
@[simp] theorem State.setDev_staging (s : State) (v : DeviceControl) : (s.setDev v).staging = s.staging := rfl
@[simp] theorem State.setDev_streams (s : State) (v : DeviceControl) : (s.setDev v).streams = s.streams := rfl
@[simp] theorem State.setDev_up (s : State) (v : DeviceControl) : (s.setDev v).up = s.up := rfl
@[simp] theorem State.setDev_store (s : State) (v : DeviceControl) : (s.setDev v).store = s.store := rfl
@[simp] theorem State.setDev_wdb (s : State) (v : DeviceControl) : (s.setDev v).wdb = s.wdb := rfl
@[simp] theorem State.setDev_order (s : State) (v : DeviceControl) : (s.setDev v).order = s.order := rfl
@[simp] theorem State.setDev_answer (s : State) (v : DeviceControl) : (s.setDev v).answer = s.answer := rfl
@[simp] theorem State.setDev_downResp (s : State) (v : DeviceControl) : (s.setDev v).downResp = s.downResp := rfl
@[simp] theorem State.setDev_issue (s : State) (v : DeviceControl) : (s.setDev v).issue = s.issue := rfl
@[simp] theorem State.setDev_ageTap (s : State) (v : DeviceControl) : (s.setDev v).ageTap = s.ageTap := rfl
@[simp] theorem State.setDev_timebase (s : State) (v : DeviceControl) : (s.setDev v).timebase = s.timebase := rfl
@[simp] theorem State.setDev_timerTicks (s : State) (v : DeviceControl) : (s.setDev v).timerTicks = s.timerTicks := rfl
@[simp] theorem State.setDev_ageDue (s : State) (v : DeviceControl) : (s.setDev v).ageDue = s.ageDue := rfl
@[simp] theorem State.setDev_timers (s : State) (v : DeviceControl) : (s.setDev v).timers = s.timers := rfl
@[simp] theorem State.setDev_deliveries (s : State) (v : DeviceControl) : (s.setDev v).deliveries = s.deliveries := rfl
@[simp] theorem State.setDev_cascades (s : State) (v : DeviceControl) : (s.setDev v).cascades = s.cascades := rfl
@[simp] theorem State.setDev_winSelect (s : State) (v : DeviceControl) : (s.setDev v).winSelect = s.winSelect := rfl
@[simp] theorem State.setDev_nt (s : State) (v : DeviceControl) : (s.setDev v).nt = s.nt := rfl
@[simp] theorem State.setDev_dev (s : State) (v : DeviceControl) : (s.setDev v).dev = v := rfl
@[simp] theorem State.setDev_mgmt (s : State) (v : DeviceControl) : (s.setDev v).mgmt = s.mgmt := rfl
@[simp] theorem State.setDev_freeCount (s : State) (v : DeviceControl) : (s.setDev v).freeCount = s.freeCount := rfl

/-! ### setMgmt -/

@[simp] theorem State.setMgmt_pending (s : State) (v : Mgmt) : (s.setMgmt v).pending = s.pending := rfl
@[simp] theorem State.setMgmt_inReset (s : State) (v : Mgmt) : (s.setMgmt v).inReset = s.inReset := rfl
@[simp] theorem State.setMgmt_matchList (s : State) (v : Mgmt) : (s.setMgmt v).matchList = s.matchList := rfl
@[simp] theorem State.setMgmt_staging (s : State) (v : Mgmt) : (s.setMgmt v).staging = s.staging := rfl
@[simp] theorem State.setMgmt_streams (s : State) (v : Mgmt) : (s.setMgmt v).streams = s.streams := rfl
@[simp] theorem State.setMgmt_up (s : State) (v : Mgmt) : (s.setMgmt v).up = s.up := rfl
@[simp] theorem State.setMgmt_store (s : State) (v : Mgmt) : (s.setMgmt v).store = s.store := rfl
@[simp] theorem State.setMgmt_wdb (s : State) (v : Mgmt) : (s.setMgmt v).wdb = s.wdb := rfl
@[simp] theorem State.setMgmt_order (s : State) (v : Mgmt) : (s.setMgmt v).order = s.order := rfl
@[simp] theorem State.setMgmt_answer (s : State) (v : Mgmt) : (s.setMgmt v).answer = s.answer := rfl
@[simp] theorem State.setMgmt_downResp (s : State) (v : Mgmt) : (s.setMgmt v).downResp = s.downResp := rfl
@[simp] theorem State.setMgmt_issue (s : State) (v : Mgmt) : (s.setMgmt v).issue = s.issue := rfl
@[simp] theorem State.setMgmt_ageTap (s : State) (v : Mgmt) : (s.setMgmt v).ageTap = s.ageTap := rfl
@[simp] theorem State.setMgmt_timebase (s : State) (v : Mgmt) : (s.setMgmt v).timebase = s.timebase := rfl
@[simp] theorem State.setMgmt_timerTicks (s : State) (v : Mgmt) : (s.setMgmt v).timerTicks = s.timerTicks := rfl
@[simp] theorem State.setMgmt_ageDue (s : State) (v : Mgmt) : (s.setMgmt v).ageDue = s.ageDue := rfl
@[simp] theorem State.setMgmt_timers (s : State) (v : Mgmt) : (s.setMgmt v).timers = s.timers := rfl
@[simp] theorem State.setMgmt_deliveries (s : State) (v : Mgmt) : (s.setMgmt v).deliveries = s.deliveries := rfl
@[simp] theorem State.setMgmt_cascades (s : State) (v : Mgmt) : (s.setMgmt v).cascades = s.cascades := rfl
@[simp] theorem State.setMgmt_winSelect (s : State) (v : Mgmt) : (s.setMgmt v).winSelect = s.winSelect := rfl
@[simp] theorem State.setMgmt_nt (s : State) (v : Mgmt) : (s.setMgmt v).nt = s.nt := rfl
@[simp] theorem State.setMgmt_dev (s : State) (v : Mgmt) : (s.setMgmt v).dev = s.dev := rfl
@[simp] theorem State.setMgmt_mgmt (s : State) (v : Mgmt) : (s.setMgmt v).mgmt = v := rfl
@[simp] theorem State.setMgmt_freeCount (s : State) (v : Mgmt) : (s.setMgmt v).freeCount = s.freeCount := rfl

/-! ### setFreeCount -/

@[simp] theorem State.setFreeCount_pending (s : State) (v : Nat) : (s.setFreeCount v).pending = s.pending := rfl
@[simp] theorem State.setFreeCount_inReset (s : State) (v : Nat) : (s.setFreeCount v).inReset = s.inReset := rfl
@[simp] theorem State.setFreeCount_matchList (s : State) (v : Nat) : (s.setFreeCount v).matchList = s.matchList := rfl
@[simp] theorem State.setFreeCount_staging (s : State) (v : Nat) : (s.setFreeCount v).staging = s.staging := rfl
@[simp] theorem State.setFreeCount_streams (s : State) (v : Nat) : (s.setFreeCount v).streams = s.streams := rfl
@[simp] theorem State.setFreeCount_up (s : State) (v : Nat) : (s.setFreeCount v).up = s.up := rfl
@[simp] theorem State.setFreeCount_store (s : State) (v : Nat) : (s.setFreeCount v).store = s.store := rfl
@[simp] theorem State.setFreeCount_wdb (s : State) (v : Nat) : (s.setFreeCount v).wdb = s.wdb := rfl
@[simp] theorem State.setFreeCount_order (s : State) (v : Nat) : (s.setFreeCount v).order = s.order := rfl
@[simp] theorem State.setFreeCount_answer (s : State) (v : Nat) : (s.setFreeCount v).answer = s.answer := rfl
@[simp] theorem State.setFreeCount_downResp (s : State) (v : Nat) : (s.setFreeCount v).downResp = s.downResp := rfl
@[simp] theorem State.setFreeCount_issue (s : State) (v : Nat) : (s.setFreeCount v).issue = s.issue := rfl
@[simp] theorem State.setFreeCount_ageTap (s : State) (v : Nat) : (s.setFreeCount v).ageTap = s.ageTap := rfl
@[simp] theorem State.setFreeCount_timebase (s : State) (v : Nat) : (s.setFreeCount v).timebase = s.timebase := rfl
@[simp] theorem State.setFreeCount_timerTicks (s : State) (v : Nat) : (s.setFreeCount v).timerTicks = s.timerTicks := rfl
@[simp] theorem State.setFreeCount_ageDue (s : State) (v : Nat) : (s.setFreeCount v).ageDue = s.ageDue := rfl
@[simp] theorem State.setFreeCount_timers (s : State) (v : Nat) : (s.setFreeCount v).timers = s.timers := rfl
@[simp] theorem State.setFreeCount_deliveries (s : State) (v : Nat) : (s.setFreeCount v).deliveries = s.deliveries := rfl
@[simp] theorem State.setFreeCount_cascades (s : State) (v : Nat) : (s.setFreeCount v).cascades = s.cascades := rfl
@[simp] theorem State.setFreeCount_winSelect (s : State) (v : Nat) : (s.setFreeCount v).winSelect = s.winSelect := rfl
@[simp] theorem State.setFreeCount_nt (s : State) (v : Nat) : (s.setFreeCount v).nt = s.nt := rfl
@[simp] theorem State.setFreeCount_dev (s : State) (v : Nat) : (s.setFreeCount v).dev = s.dev := rfl
@[simp] theorem State.setFreeCount_mgmt (s : State) (v : Nat) : (s.setFreeCount v).mgmt = s.mgmt := rfl
@[simp] theorem State.setFreeCount_freeCount (s : State) (v : Nat) : (s.setFreeCount v).freeCount = v := rfl

/-! ### Tables -/

/-- Reading an updated table. -/
theorem cell_updAt {α : Type} {k : Nat} (v : Vector α k) (i j : Fin k) (f : α → α) :
    cell (updAt v i f) j = if i = j then f (cell v j) else cell v j := by
  by_cases h : i = j
  · subst h; simp [cell, updAt]
  · have : i.val ≠ j.val := fun e => h (Fin.ext e)
    simp [cell, updAt, h, this]

/-- The entry that an update rewrites. -/
@[simp] theorem cell_updAt_self {α : Type} {k : Nat} (v : Vector α k) (i : Fin k) (f : α → α) :
    cell (updAt v i f) i = f (cell v i) := by
  simp [cell_updAt]

/-- The entries that an update leaves. -/
theorem cell_updAt_other {α : Type} {k : Nat} (v : Vector α k) (i j : Fin k) (f : α → α) (h : j ≠ i) :
    cell (updAt v i f) j = cell v j := by
  simp [cell_updAt, Ne.symm h]

/-- Reading a table rewritten whole. -/
@[simp] theorem cell_mapAll {α : Type} {k : Nat} (v : Vector α k) (f : Fin k → α → α) (j : Fin k) :
    cell (mapAll v f) j = f j (cell v j) := by
  simp [cell, mapAll]

/-- Reading a table of equal entries. -/
@[simp] theorem cell_replicate {α : Type} {k : Nat} (a : α) (j : Fin k) : cell (Vector.replicate k a) j = a := by
  simp [cell]

/-- Two tables with equal entries are equal. -/
theorem table_ext {α : Type} {k : Nat} {v w : Vector α k} (h : ∀ i, cell v i = cell w i) : v = w := by
  apply Vector.ext
  intro i hi
  exact h ⟨i, hi⟩

/-- The stream that an update rewrites, and the others. -/
theorem State.onStream_stream (s : State) (n m : StreamId) (f : Stream → Stream) :
    (s.onStream n f).stream m = if n = m then f (s.stream m) else s.stream m := by
  simp [State.onStream, State.stream, cell_updAt]

/-- The timer that an update rewrites, and the others. -/
theorem State.onTimer_timer (s : State) (t u : TimerId) (f : Timer → Timer) :
    (s.onTimer t f).timer u = if t = u then f (s.timer u) else s.timer u := by
  simp [State.onTimer, State.timer, cell_updAt]

/-! ### Reading one stream record after an update -/

@[simp] theorem State.setPending_stream (s : State) (v : List Instr) (n : StreamId) : (s.setPending v).stream n = s.stream n := rfl
@[simp] theorem State.setInReset_stream (s : State) (v : Bool) (n : StreamId) : (s.setInReset v).stream n = s.stream n := rfl
@[simp] theorem State.setMatchList_stream (s : State) (v : Vector MatchEntry 32) (n : StreamId) : (s.setMatchList v).stream n = s.stream n := rfl
@[simp] theorem State.setStaging_stream (s : State) (v : MatchRule) (n : StreamId) : (s.setStaging v).stream n = s.stream n := rfl
@[simp] theorem State.setStreams_stream (s : State) (v : Vector Stream 16) (n : StreamId) : (s.setStreams v).stream n = cell v n := rfl
@[simp] theorem State.setUp_stream (s : State) (v : UpPort) (n : StreamId) : (s.setUp v).stream n = s.stream n := rfl
@[simp] theorem State.setStore_stream (s : State) (v : List StoreRec) (n : StreamId) : (s.setStore v).stream n = s.stream n := rfl
@[simp] theorem State.setWdb_stream (s : State) (v : List Alloc) (n : StreamId) : (s.setWdb v).stream n = s.stream n := rfl
@[simp] theorem State.setOrder_stream (s : State) (v : List OrderEntry) (n : StreamId) : (s.setOrder v).stream n = s.stream n := rfl
@[simp] theorem State.setAnswer_stream (s : State) (v : AnswerBlock) (n : StreamId) : (s.setAnswer v).stream n = s.stream n := rfl
@[simp] theorem State.setDownResp_stream (s : State) (v : Option Response) (n : StreamId) : (s.setDownResp v).stream n = s.stream n := rfl
@[simp] theorem State.setIssue_stream (s : State) (v : IssueBlock) (n : StreamId) : (s.setIssue v).stream n = s.stream n := rfl
@[simp] theorem State.setAgeTap_stream (s : State) (v : Tap) (n : StreamId) : (s.setAgeTap v).stream n = s.stream n := rfl
@[simp] theorem State.setTimebase_stream (s : State) (v : BitVec 15) (n : StreamId) : (s.setTimebase v).stream n = s.stream n := rfl
@[simp] theorem State.setTimers_stream (s : State) (v : Vector Timer 4) (n : StreamId) : (s.setTimers v).stream n = s.stream n := rfl
@[simp] theorem State.setDeliveries_stream (s : State) (v : List Delivery) (n : StreamId) : (s.setDeliveries v).stream n = s.stream n := rfl
@[simp] theorem State.setCascades_stream (s : State) (v : Vector Nat 4) (n : StreamId) : (s.setCascades v).stream n = s.stream n := rfl
@[simp] theorem State.setWinSelect_stream (s : State) (v : Vector (Option StreamId) 4) (n : StreamId) : (s.setWinSelect v).stream n = s.stream n := rfl
@[simp] theorem State.setNt_stream (s : State) (v : Notices) (n : StreamId) : (s.setNt v).stream n = s.stream n := rfl
@[simp] theorem State.setDev_stream (s : State) (v : DeviceControl) (n : StreamId) : (s.setDev v).stream n = s.stream n := rfl
@[simp] theorem State.setMgmt_stream (s : State) (v : Mgmt) (n : StreamId) : (s.setMgmt v).stream n = s.stream n := rfl
@[simp] theorem State.setFreeCount_stream (s : State) (v : Nat) (n : StreamId) : (s.setFreeCount v).stream n = s.stream n := rfl

/-! ### Reading one timer record after an update -/

@[simp] theorem State.setPending_timer (s : State) (v : List Instr) (n : TimerId) : (s.setPending v).timer n = s.timer n := rfl
@[simp] theorem State.setInReset_timer (s : State) (v : Bool) (n : TimerId) : (s.setInReset v).timer n = s.timer n := rfl
@[simp] theorem State.setMatchList_timer (s : State) (v : Vector MatchEntry 32) (n : TimerId) : (s.setMatchList v).timer n = s.timer n := rfl
@[simp] theorem State.setStaging_timer (s : State) (v : MatchRule) (n : TimerId) : (s.setStaging v).timer n = s.timer n := rfl
@[simp] theorem State.setStreams_timer (s : State) (v : Vector Stream 16) (n : TimerId) : (s.setStreams v).timer n = s.timer n := rfl
@[simp] theorem State.setUp_timer (s : State) (v : UpPort) (n : TimerId) : (s.setUp v).timer n = s.timer n := rfl
@[simp] theorem State.setStore_timer (s : State) (v : List StoreRec) (n : TimerId) : (s.setStore v).timer n = s.timer n := rfl
@[simp] theorem State.setWdb_timer (s : State) (v : List Alloc) (n : TimerId) : (s.setWdb v).timer n = s.timer n := rfl
@[simp] theorem State.setOrder_timer (s : State) (v : List OrderEntry) (n : TimerId) : (s.setOrder v).timer n = s.timer n := rfl
@[simp] theorem State.setAnswer_timer (s : State) (v : AnswerBlock) (n : TimerId) : (s.setAnswer v).timer n = s.timer n := rfl
@[simp] theorem State.setDownResp_timer (s : State) (v : Option Response) (n : TimerId) : (s.setDownResp v).timer n = s.timer n := rfl
@[simp] theorem State.setIssue_timer (s : State) (v : IssueBlock) (n : TimerId) : (s.setIssue v).timer n = s.timer n := rfl
@[simp] theorem State.setAgeTap_timer (s : State) (v : Tap) (n : TimerId) : (s.setAgeTap v).timer n = s.timer n := rfl
@[simp] theorem State.setTimebase_timer (s : State) (v : BitVec 15) (n : TimerId) : (s.setTimebase v).timer n = s.timer n := rfl
@[simp] theorem State.setTimers_timer (s : State) (v : Vector Timer 4) (n : TimerId) : (s.setTimers v).timer n = cell v n := rfl
@[simp] theorem State.setDeliveries_timer (s : State) (v : List Delivery) (n : TimerId) : (s.setDeliveries v).timer n = s.timer n := rfl
@[simp] theorem State.setCascades_timer (s : State) (v : Vector Nat 4) (n : TimerId) : (s.setCascades v).timer n = s.timer n := rfl
@[simp] theorem State.setWinSelect_timer (s : State) (v : Vector (Option StreamId) 4) (n : TimerId) : (s.setWinSelect v).timer n = s.timer n := rfl
@[simp] theorem State.setNt_timer (s : State) (v : Notices) (n : TimerId) : (s.setNt v).timer n = s.timer n := rfl
@[simp] theorem State.setDev_timer (s : State) (v : DeviceControl) (n : TimerId) : (s.setDev v).timer n = s.timer n := rfl
@[simp] theorem State.setMgmt_timer (s : State) (v : Mgmt) (n : TimerId) : (s.setMgmt v).timer n = s.timer n := rfl
@[simp] theorem State.setFreeCount_timer (s : State) (v : Nat) (n : TimerId) : (s.setFreeCount v).timer n = s.timer n := rfl

end Sys2Proof.Machine
end

