-- ==== Sys2Proof/Laws/Close.lean ====
section
/-! SUPPORT. What the end of an event does: a free order is a permutation, each judgement changes its own part alone,
and an event whose held response stays held ends as Safety.Ends says, or, where it brings about no fill, take or
completion, as Safety.Judged does. -/

namespace Sys2Proof.Machine

/-! ### The free order (R139) -/

/-- A free order holds each element once. -/
theorem freeOrder_perm {α : Type} (l : List α) : ∀ c, (freeOrder c l).Perm l := by
  match l with
  | [] => intro c; exact List.Perm.refl _
  | [a] => intro c; exact List.Perm.refl _
  | a :: b :: l =>
    intro c
    have ih := freeOrder_perm (b :: l) (c + 1)
    have hlen : (freeOrder (c + 1) (b :: l)).length = l.length + 1 := by simpa using ih.length_eq
    have hk : Config.freeChoice c % (l.length + 2) ≤ (freeOrder (c + 1) (b :: l)).length := by
      have : Config.freeChoice c % (l.length + 2) < l.length + 2 := Nat.mod_lt _ (by omega)
      omega
    exact (List.perm_insertIdx a _ hk).trans (ih.cons a)

/-! ### The judgements -/

/-- A held response stays held: nothing is discarded. -/
theorem discardResponse_held {u : State} {jobs : List NoticeJob} (h : u.responseHeld) :
    Ev.discardResponse { st := u, jobs := jobs } = { st := u, jobs := jobs } := by
  unfold Ev.discardResponse
  cases hr : u.downResp with
  | none => simp
  | some r =>
    obtain ⟨m, hm, hi⟩ := h r hr
    simp [hm, hi]

@[simp] theorem noteShortfalls_jobs (e : Ev) : e.noteShortfalls.jobs = e.jobs ++ e.st.creditNotices := rfl

@[simp] theorem noteShortfalls_st (e : Ev) : e.noteShortfalls.st = e.st.setStreams
    (mapAll e.st.streams (fun n st => if e.st.newlyShort n then { st with noted := true } else st)) := rfl

/-- The marker after one judgement: set where it was set or a shortfall is found (R71). -/
theorem markShort (st : Stream) (b : Bool) :
    (if (b && !st.noted) = true then { st with noted := true } else st) = { st with noted := st.noted || b } := by
  rcases st with ⟨x1, x2, x3, x4, x5, x6, noted, x8⟩
  cases b <;> cases noted <;> rfl

/-- The end-of-event judgement of the streams changes no more than markers. -/
theorem noteShortfalls_stream (e : Ev) (n : StreamId) :
    e.noteShortfalls.st.stream n =
      { e.st.stream n with noted := (e.st.stream n).noted || e.st.headShort n } := by
  simp only [noteShortfalls_st, State.setStreams_stream, cell_mapAll, State.newlyShort]
  exact markShort (e.st.stream n) (e.st.headShort n)

/-- Two states differ in their stream records alone, and there neither in a live set, nor in a mode, nor in a credit. -/
structure SamePlan (s t : State) : Prop where
  rest : t = { s with streams := t.streams }
  live : ∀ n, (t.stream n).live = (s.stream n).live
  mode : ∀ n, (t.stream n).mode = (s.stream n).mode
  credit : ∀ n, (t.stream n).credit = (s.stream n).credit

theorem SamePlan.regulated {s t : State} (h : SamePlan s t) (n : StreamId) : t.regulated n = s.regulated n := by
  unfold State.regulated; rw [h.mode, h.rest]

theorem SamePlan.windowOpen {s t : State} (h : SamePlan s t) (n : StreamId) : t.windowOpen n = s.windowOpen n := by
  unfold State.windowOpen; rw [h.live, h.rest]; rfl

/-- What admission reads of a stream record is its live set, its mode and its credit. -/
theorem SamePlan.admission {s t : State} (h : SamePlan s t) (r : Request) : t.admission r = s.admission r := by
  have hq : ∀ n, t.queue n = s.queue n := fun n => by rw [h.rest]; rfl
  have hc : ∀ r, t.classify r = s.classify r := fun r => by rw [h.rest]; rfl
  unfold State.admission State.refuses
  simp only [h.live, h.credit, h.regulated, h.windowOpen, hq, hc]

/-- Which resources lack depends on no other part of a stream record. -/
theorem SamePlan.lacks {s t : State} (h : SamePlan s t) (r : Request) : t.lacks r = s.lacks r := by
  unfold State.lacks; rw [h.admission]; rw [h.rest]; rfl

/-- The stall depends on no other part of a stream record. -/
theorem SamePlan.stall {s t : State} (h : SamePlan s t) : t.stall = s.stall := by
  unfold State.stall
  have hu : t.up = s.up := by rw [h.rest]
  have hd : t.dev = s.dev := by rw [h.rest]
  rw [hu, hd]
  cases s.up.offer with
  | none => rfl
  | some r => simp [h.lacks]

/-- The shortfall of a head depends on no other part of a stream record. -/
theorem SamePlan.headShort {s t : State} (h : SamePlan s t) (n : StreamId) : t.headShort n = s.headShort n := by
  have hq : t.queueHead n = s.queueHead n := by rw [h.rest]; rfl
  unfold State.headShort
  rw [h.regulated, h.live, h.credit, hq]

/-- The stall is noted in the UP port alone. -/
theorem noteStall_st (e : Ev) : e.noteStall.st = e.st.setUp { e.st.up with lacking := e.st.stall } := by
  unfold Ev.noteStall
  simp only [Ev.map, Ev.raise]
  split <;> split <;> split <;> rfl

/-- The occurrences that noting the stall adds. -/
theorem noteStall_jobs (e : Ev) : e.noteStall.jobs = e.jobs ++ e.st.stallNotices := by
  unfold Ev.noteStall State.stallNotices
  simp only [Ev.map, Ev.raise]
  split <;> split <;> split <;> simp_all

/-! ### Presentations (R151) -/

/-- A presentation is due exactly in IDLE with the hold clear and entries waiting. -/
theorem presentable_iff (nt : Notices) :
    nt.presentable = true ↔ nt.port = .idle ∧ nt.hold = false ∧ nt.queue ≠ [] := by
  unfold Notices.presentable
  simp [and_assoc]

/-- Where none is due, none takes place. -/
theorem present_of_presented {nt : Notices} (h : nt.Presented) : nt.present = nt := by
  unfold Notices.present
  rw [if_neg]
  rw [presentable_iff]
  rintro ⟨h1, h2, h3⟩
  exact h3 (h h1 h2)

/-- After a presentation none is due. -/
theorem present_presented (nt : Notices) : nt.present.Presented := by
  unfold Notices.present
  split
  · intro h; cases h
  · next h =>
    rw [presentable_iff] at h
    intro h1 h2
    by_contra h3
    exact h ⟨h1, h2, h3⟩

/-- A presentation changes the port's state and the timer alone. -/
theorem present_rest (nt : Notices) : nt.present = { nt with port := nt.present.port, timer := nt.present.timer } := by
  unfold Notices.present
  split <;> rfl

@[simp] theorem runAll_nil (nt : Notices) : nt.runAll [] = nt.present := rfl

/-- Each thing that an event hands to the notice unit leaves no presentation due. -/
theorem run_presented (nt : Notices) (j : NoticeJob) : (nt.run j).Presented := by
  cases j <;> exact present_presented _

/-- The notice unit's taking of what an event hands to it leaves no presentation due. -/
theorem runAll_presented (nt : Notices) (jobs : List NoticeJob) : (nt.runAll jobs).Presented := by
  unfold Notices.runAll
  have : ∀ (l : List NoticeJob) (x : Notices), x.Presented → (l.foldl Notices.run x).Presented := by
    intro l
    induction l with
    | nil => intro x h; exact h
    | cons j l ih => intro x _; exact ih _ (run_presented x j)
  exact this jobs _ (present_presented nt)

/-- What a notice unit that has no presentation due takes is taken one after the other. -/
theorem runAll_of_presented {nt : Notices} (h : nt.Presented) (jobs : List NoticeJob) :
    nt.runAll jobs = jobs.foldl Notices.run nt := by
  unfold Notices.runAll
  rw [present_of_presented h]

/-- What holds before an event and is kept by presentations and by each thing that the event hands to the notice unit
holds after it. -/
theorem runAll_induction {P : Notices → Prop} (hp : ∀ nt, P nt → P nt.present)
    (hr : ∀ nt j, P nt → P (nt.run j)) {nt : Notices} (h : P nt) (jobs : List NoticeJob) : P (nt.runAll jobs) := by
  unfold Notices.runAll
  have : ∀ (l : List NoticeJob) (x : Notices), P x → P (l.foldl Notices.run x) := by
    intro l
    induction l with
    | nil => intro x h; exact h
    | cons j l ih => intro x h; exact ih _ (hr x j h)
  exact this jobs _ (hp nt h)

/-! ### The end of an event -/

/-- The notice unit takes the event's jobs, and only it and the count of free choices change. -/
theorem notify_spec (e : Ev) :
    e.st.nt.Takes e.jobs e.notify.nt ∧ e.notify = { e.st with nt := e.notify.nt, freeCount := e.notify.freeCount } := by
  unfold Ev.notify
  split
  · exact ⟨⟨_, freeOrder_perm _ _, rfl⟩, rfl⟩
  · exact ⟨⟨_, List.Perm.refl _, rfl⟩, rfl⟩

/-- With nothing to report and no presentation due the notice unit and the count stay. -/
theorem notify_nil {u : State} (h : u.nt.Presented) : Ev.notify { st := u, jobs := [] } = u := by
  show u.setNt (u.nt.runAll []) = u
  rw [runAll_nil, present_of_presented h]
  rfl

/-- The judgements at the end of an event. -/
theorem judge_judged (u : State) (jobs : List NoticeJob) : Judged u jobs (Ev.judge { st := u, jobs := jobs }) := by
  unfold Ev.judge
  generalize he : Ev.noteShortfalls { st := u, jobs := jobs } = e
  have hstream : ∀ n, e.st.stream n = { u.stream n with noted := (u.stream n).noted || u.headShort n } := by
    intro n; rw [← he]; exact noteShortfalls_stream _ n
  have hrest : e.st = { u with streams := e.st.streams } := by rw [← he]; rfl
  have hjobs : e.jobs = jobs ++ u.creditNotices := by rw [← he]; rfl
  have hplan : SamePlan u e.st :=
    { rest := hrest
      live := fun n => by rw [hstream n]
      mode := fun n => by rw [hstream n]
      credit := fun n => by rw [hstream n] }
  have hstall : e.st.stall = u.stall := hplan.stall
  have hup : e.st.up = u.up := by rw [hrest]
  have hnt : e.st.nt = u.nt := by rw [hrest]
  have hnotes : e.st.stallNotices = u.stallNotices := by
    unfold State.stallNotices; rw [hstall, hup]
  obtain ⟨ht, hk⟩ := notify_spec e.noteStall
  rw [noteStall_jobs, hjobs, hnotes, noteStall_st] at ht
  rw [noteStall_st] at hk
  generalize e.noteStall.notify = t at ht hk
  have hts : t.streams = e.st.streams := by rw [hk]; rfl
  constructor
  · rw [hk]
    simp only [State.setUp]
    rw [hrest]
  · intro n
    have : t.stream n = e.st.stream n := by unfold State.stream; rw [hts]
    rw [this, hstream n]
  · rw [hk]
    simp [State.setUp, hup, hstall]
  · simpa [State.setUp, hnt, List.append_assoc] using ht

/-! ### The fill, the completion and the take that an event brings about (R32, R36, R97, R167) -/

/-- The drain is over in DRAINING: the completion is due. -/
theorem drained_iff (s : State) : s.drained = true ↔ s.dev.mode = .draining ∧ s.drainOver := by
  unfold State.drained State.drainOver
  simp [and_assoc, Option.isNone_iff_eq_none]

/-- What R32 asks before a take: an offer, a mode other than DRAINING, and no resource lacking. -/
theorem takeable_some {s : State} {r : Request} :
    s.takeable = some r ↔ s.up.offer = some r ∧ s.dev.mode ≠ .draining ∧ s.lacks r = Lacking.none := by
  unfold State.takeable
  cases h : s.up.offer with
  | none => simp
  | some q =>
    dsimp only
    by_cases hc : s.dev.mode ≠ .draining ∧ s.lacks q = Lacking.none
    · rw [if_pos hc]
      simp only [Option.some.injEq]
      constructor
      · rintro rfl; exact ⟨rfl, hc⟩
      · rintro ⟨hq, -⟩; exact hq
    · rw [if_neg hc]
      simp only [Option.some.injEq]
      constructor
      · intro hq; cases hq
      · rintro ⟨rfl, hn⟩; exact absurd hn hc

/-- No take is due exactly where an offer waits for the end of the drain or for a resource. -/
theorem takeable_none_iff (s : State) : s.takeable = none ↔ s.offerWaits := by
  unfold State.offerWaits
  constructor
  · intro h r hr
    by_contra hc
    simp only [not_or, not_not] at hc
    rw [takeable_some.mpr ⟨hr, hc⟩] at h
    cases h
  · intro h
    cases ht : s.takeable with
    | none => rfl
    | some r =>
      obtain ⟨h1, h2, h3⟩ := takeable_some.mp ht
      rcases h r h1 with h | h
      · exact absurd h h2
      · exact absurd h3 h

/-- Where the drain is not over no completion comes about (R167). -/
theorem complete_of_waits {e : Ev} (h : e.st.drainWaits) : e.complete = e := by
  unfold Ev.complete
  rw [if_neg]
  rw [drained_iff]
  rintro ⟨h1, h2⟩
  exact h h1 h2

/-- Outside DRAINING no completion comes about. -/
theorem drainWaits_of_mode {s : State} (h : s.dev.mode ≠ .draining) : s.drainWaits := fun hm => absurd hm h

/-- In DRAINING no take comes about (R36). -/
theorem offerWaits_of_draining {s : State} (h : s.dev.mode = .draining) : s.offerWaits := fun _ _ => .inl h

/-- With no offer no take comes about. -/
theorem offerWaits_of_none {s : State} (h : s.up.offer = none) : s.offerWaits := fun r hr => by rw [h] at hr; cases hr

/-- Where no take is due none comes about (R32). -/
theorem takeIfAble_of_waits {e : Ev} (h : e.st.offerWaits) : e.takeIfAble = e := by
  unfold Ev.takeIfAble
  rw [(takeable_none_iff _).mpr h]

/-- With the answer stage occupied no answer goes into it. -/
theorem answersWait_of_occupied {s : State} {a : Answer} (h : s.answer.stage = some a) : s.answersWait := fun hn => by
  rw [h] at hn; cases hn

/-- Where no fill is due none comes about (R97). -/
theorem fill_of_waits {e : Ev} (h : e.st.answersWait) : e.fill = e := by
  unfold Ev.fill
  cases hs : e.st.answer.stage with
  | some a => rfl
  | none =>
    obtain ⟨h1, h2⟩ := h hs
    simp only [h1, h2]

/-- Where none of them is due an event brings about nothing. -/
theorem brings_of_waits {e : Ev} (ho : e.st.offerWaits) (hd : e.st.drainWaits) (ha : e.st.answersWait) :
    e.brings = e := by
  unfold Ev.brings
  rw [fill_of_waits ha, complete_of_waits hd, takeIfAble_of_waits ho, fill_of_waits ha]

/-- The end of an event at which no held response is discarded. -/
theorem close_ends {u : State} {jobs : List NoticeJob} (h : u.responseHeld) :
    Ends u jobs (Ev.close { st := u, jobs := jobs }) := by
  unfold Ev.close Ends
  rw [discardResponse_held h]
  exact judge_judged _ _

/-- Where no fill, take or completion is due an event ends with its judgements. -/
theorem ends_iff_judged {u t : State} {jobs : List NoticeJob} (ho : u.offerWaits) (hd : u.drainWaits)
    (ha : u.answersWait) : Ends u jobs t ↔ Judged u jobs t := by
  unfold Ends
  rw [brings_of_waits ho hd ha]

/-- The end of an event at which no held response is discarded and no fill, take or completion is due. -/
theorem close_judged {u : State} {jobs : List NoticeJob} (h : u.responseHeld) (ho : u.offerWaits)
    (hd : u.drainWaits) (ha : u.answersWait) : Judged u jobs (Ev.close { st := u, jobs := jobs }) :=
  (ends_iff_judged ho hd ha).mp (close_ends h)

/-! ### Settled states -/

/-- In a state whose judgements have been made no shortfall is new. -/
theorem State.Noted.newlyShort {u : State} (h : u.Noted) (n : StreamId) : u.newlyShort n = false := by
  unfold State.newlyShort
  cases hs : u.headShort n with
  | false => rfl
  | true => simp [h.shortfalls n hs]

/-- There the shortfalls raise nothing. -/
theorem State.Noted.creditNotices {u : State} (h : u.Noted) : u.creditNotices = [] := by
  unfold State.creditNotices
  have : (List.finRange 16).filter u.newlyShort = [] := by
    simp [List.filter_eq_nil_iff, h.newlyShort]
  rw [this]; rfl

/-- There the stall raises nothing. -/
theorem State.Noted.stallNotices {u : State} (h : u.Noted) : u.stallNotices = [] := by
  unfold State.stallNotices
  rw [← h.stall]
  simp

/-- The judgements change nothing where they have been made. -/
theorem judge_noted {u : State} (h : u.Noted) : Ev.judge { st := u, jobs := [] } = u := by
  unfold Ev.judge
  have h1 : Ev.noteShortfalls { st := u, jobs := [] } = { st := u, jobs := [] } := by
    have hv : mapAll u.streams (fun n st => if u.newlyShort n then { st with noted := true } else st) = u.streams := by
      apply table_ext; intro i; simp [h.newlyShort]
    unfold Ev.noteShortfalls
    rw [hv]
    have := h.creditNotices
    unfold State.creditNotices at this
    rw [this]; rfl
  have h2 : Ev.noteStall { st := u, jobs := [] } = { st := u, jobs := [] } := by
    have hs : (Ev.noteStall { st := u, jobs := [] }).st = u := by
      rw [noteStall_st, ← h.stall]; rfl
    have hj : (Ev.noteStall { st := u, jobs := [] }).jobs = [] := by
      rw [noteStall_jobs, h.stallNotices]; rfl
    cases hq : Ev.noteStall { st := u, jobs := [] } with
    | mk a b => rw [hq] at hs hj; simp_all
  rw [h1, h2]
  exact notify_nil h.presented

/-- An event that leaves a settled state and raises nothing ends as it stands. -/
theorem close_settled {u : State} (h : u.Settled) : Ev.close { st := u, jobs := [] } = u := by
  unfold Ev.close
  rw [discardResponse_held h.noted.response, brings_of_waits h.offer h.drain h.answers]
  exact judge_noted h.noted

/-- An event that leaves a settled state ends with the notice unit's taking of what it raised, and nothing more. -/
theorem close_settled_jobs {u : State} (h : u.Settled) (jobs : List NoticeJob) :
    ∃ nt k, u.nt.Takes jobs nt ∧ Ev.close { st := u, jobs := jobs } = { u with nt := nt, freeCount := k } := by
  have hj := close_judged (jobs := jobs) h.noted.response h.offer h.drain h.answers
  refine ⟨(Ev.close { st := u, jobs := jobs }).nt, (Ev.close { st := u, jobs := jobs }).freeCount, ?_, ?_⟩
  · have := hj.notices
    rwa [h.noted.creditNotices, h.noted.stallNotices, List.append_nil, List.append_nil] at this
  · have hs : (Ev.close { st := u, jobs := jobs }).streams = u.streams := by
      apply table_ext
      intro n
      refine (hj.markers n).trans ?_
      show _ = u.stream n
      cases hh : u.headShort n with
      | false => simp
      | true => have := h.noted.shortfalls n hh; simp [← this]
    have hu : (Ev.close { st := u, jobs := jobs }).up = u.up := by rw [hj.offer, ← h.noted.stall]
    exact hj.kept.trans (by rw [hs, hu])

/-- A settled state stays settled where its streams keep what the judgements read of them. -/
theorem State.Settled.samePlan {s t : State} (h : s.Settled) (hp : SamePlan s t)
    (hn : ∀ n, (t.stream n).noted = (s.stream n).noted) : t.Settled := by
  have hu : t.up = s.up := by rw [hp.rest]
  refine ⟨⟨?_, ?_, ?_, ?_⟩, ?_, ?_, ?_⟩
  · have := h.noted.response; rw [hp.rest]; exact this
  · intro n hs; rw [hn]; exact h.noted.shortfalls n (by rwa [hp.headShort] at hs)
  · show t.up.lacking = t.stall
    rw [hu, hp.stall]; exact h.noted.stall
  · have := h.noted.presented; rw [hp.rest]; exact this
  · intro r hr
    rw [hp.lacks, show t.dev = s.dev by rw [hp.rest]]
    exact h.offer r (by rwa [hu] at hr)
  · have := h.drain; rw [hp.rest]; exact this
  · have := h.answers; rw [hp.rest]; exact this

/-- A settled state stays settled where all that the judgements read stays: the port's offer, the device mode, the
order table, the issue stage's being empty, the answer block, the store, the buffer, the match list, the response on DOWN, the windows, and of
each stream record the live set, the mode, the credit and the marker; and where no presentation is due. -/
theorem State.Settled.congr {s u : State} (h : s.Settled) (hup : u.up = s.up) (hdev : u.dev.mode = s.dev.mode)
    (hissue : u.issue.stage = none → s.issue.stage = none) (hanswer : u.answer = s.answer)
    (horder : u.order = s.order) (hstore : u.store = s.store) (hwdb : u.wdb = s.wdb)
    (hmatch : u.matchList = s.matchList) (hresp : u.downResp = s.downResp)
    (hwin : ∀ n, u.windowOpen n = s.windowOpen n) (hlive : ∀ n, (u.stream n).live = (s.stream n).live)
    (hmode : ∀ n, (u.stream n).mode = (s.stream n).mode) (hcredit : ∀ n, (u.stream n).credit = (s.stream n).credit)
    (hnoted : ∀ n, (u.stream n).noted = (s.stream n).noted) (hnt : u.nt.Presented) : u.Settled := by
  have hreg : ∀ n, u.regulated n = s.regulated n := fun n => by unfold State.regulated; rw [hmode, hdev]
  have hq : ∀ n, u.queue n = s.queue n := fun n => by unfold State.queue; rw [hstore]
  have hc : ∀ r, u.classify r = s.classify r := fun r => by unfold State.classify; rw [hmatch]
  have hl : ∀ r, u.lacks r = s.lacks r := fun r => by
    unfold State.lacks State.admission State.refuses State.bufferUsed
    simp only [hlive, hcredit, hreg, hwin, hq, hc, horder, hstore, hwdb]
  refine ⟨⟨?_, ?_, ?_, hnt⟩, ?_, ?_, ?_⟩
  · intro r hr
    have := h.noted.response r (by rw [← hresp]; exact hr)
    unfold State.oldestDue at this ⊢
    rwa [horder]
  · intro n hs
    rw [hnoted]
    apply h.noted.shortfalls n
    unfold State.headShort State.queueHead at hs ⊢
    rwa [hreg, hlive, hcredit, hstore] at hs
  · have := h.noted.stall
    unfold State.stallNoted State.stall at *
    simp only [hl, hup, hdev]
    exact this
  · intro r hr
    rw [hl, hdev]
    exact h.offer r (by rwa [hup] at hr)
  · intro hm ho
    exact h.drain (by rwa [hdev] at hm) ⟨by rw [← horder]; exact ho.1, hissue ho.2.1, by rw [← hanswer]; exact ho.2.2⟩
  · have := h.answers
    unfold State.answersWait State.answerable State.oldestDue State.localChoice State.localFront State.answerFront at *
    rwa [hanswer, hresp, horder]

/-- A settled state stays settled where only parts change that no judgement reads, and where no presentation is due. -/
theorem State.Settled.other {s u : State} (h : s.Settled)
    (hu : u = { s with
      pending := u.pending, inReset := u.inReset, staging := u.staging, nt := u.nt, mgmt := u.mgmt, freeCount := u.freeCount, ageTap := u.ageTap, timebase := u.timebase,
      timerTicks := u.timerTicks, ageDue := u.ageDue, deliveries := u.deliveries, cascades := u.cascades, winSelect := u.winSelect }) (hnt : u.nt.Presented) :
    u.Settled := by
  obtain ⟨⟨h1, h2, h3, -⟩, h4, h5, h6⟩ := h
  rw [hu] at hnt ⊢
  exact ⟨⟨h1, h2, h3, hnt⟩, h4, h5, h6⟩

/-! ### Events -/

/-- Outside cold reset. -/
theorem event_open {s : State} (h : s.inReset = false) (f : Ev → State) : event s f = .next (f { st := s, jobs := [] }) := by
  simp [event, h]

/-- Cold reset lets no event happen. -/
theorem event_inReset {s : State} (h : s.inReset = true) (f : Ev → State) : event s f = .next s := by
  simp [event, h]

/-- Where no completion is due none follows. -/
theorem follow_of_waits {e : Ev} (h : e.st.drainWaits) : e.follow = e := by
  unfold Ev.follow
  rw [if_neg]
  rw [drained_iff]
  rintro ⟨h1, h2⟩
  exact h h1 h2

/-- An event outside cold reset where no completion is due. -/
theorem happen_open {s : State} (h : s.inReset = false) (hw : s.drainWaits) (f : Ev → Ev) :
    happen s f = .next (f { st := s, jobs := [] }).close := by
  unfold happen
  rw [event_open h, follow_of_waits (e := ⟨s, []⟩) hw]

/-- Cold reset lets no event happen. -/
theorem happen_inReset {s : State} (h : s.inReset = true) (f : Ev → Ev) : happen s f = .next s := event_inReset h _

/-- A request for a warm reset in DRAINING is no start (R161). -/
theorem askReset_draining {s : State} (h : s.inReset = false) (hm : s.dev.mode = .draining) (f : Ev → Ev) :
    askReset s f = .next (f { st := s, jobs := [] }).close := by
  simp [askReset, event, h, hm]

/-- A request for a warm reset outside DRAINING (R161). -/
theorem askReset_start {s : State} (h : s.inReset = false) (hm : s.dev.mode ≠ .draining) (f : Ev → Ev) :
    askReset s f = .next (f { st := s, jobs := [] }).closeStart := by
  simp [askReset, event, h, hm]

/-- An event that leaves its drain unfinished ends without a completion (R167). -/
theorem closeStart_eq_close {e : Ev} (h : e.discardResponse.fill.st.drainWaits) : e.closeStart = e.close := by
  unfold Ev.closeStart Ev.close Ev.brings
  rw [complete_of_waits h]

/-- A start that leaves a state with its judgements made and nothing to wait for ends as it stands. -/
theorem closeStart_noted {u : State} (h : u.Noted) (hm : u.dev.mode = .draining) (ha : u.answersWait) :
    Ev.closeStart { st := u, jobs := [] } = u := by
  unfold Ev.closeStart
  rw [discardResponse_held h.response, fill_of_waits (e := ⟨u, []⟩) ha,
    takeIfAble_of_waits (e := ⟨u, []⟩) (offerWaits_of_draining hm), fill_of_waits (e := ⟨u, []⟩) ha]
  exact judge_noted h

/-- An event whose own effect keeps a held response held. -/
theorem event_ends {s u : State} {f : Ev → Ev} {jobs : List NoticeJob} (hr : s.inReset = false) (hw : s.drainWaits)
    (hf : f { st := s, jobs := [] } = { st := u, jobs := jobs }) (hu : u.responseHeld) :
    ∃ t, happen s f = .next t ∧ Ends u jobs t :=
  ⟨_, happen_open hr hw f, by rw [hf]; exact close_ends hu⟩

/-- An event whose own effect keeps a held response held and makes no fill, take or completion due. -/
theorem event_judged {s u : State} {f : Ev → Ev} {jobs : List NoticeJob} (hr : s.inReset = false) (hw : s.drainWaits)
    (hf : f { st := s, jobs := [] } = { st := u, jobs := jobs }) (hu : u.responseHeld) (ho : u.offerWaits)
    (hd : u.drainWaits) (ha : u.answersWait) : ∃ t, happen s f = .next t ∧ Judged u jobs t :=
  ⟨_, happen_open hr hw f, by rw [hf]; exact close_judged hu ho hd ha⟩

/-- An event whose own effect is settled and raises nothing. -/
theorem event_settled {s u : State} {f : Ev → Ev} (hr : s.inReset = false) (hw : s.drainWaits)
    (hf : f { st := s, jobs := [] } = { st := u, jobs := [] }) (hu : u.Settled) : happen s f = .next u := by
  rw [happen_open hr hw, hf, close_settled hu]

/-- An event whose own effect is settled and that raises something. -/
theorem event_settled_jobs {s u : State} {f : Ev → Ev} {jobs : List NoticeJob} (hr : s.inReset = false)
    (hw : s.drainWaits)
    (hf : f { st := s, jobs := [] } = { st := u, jobs := jobs }) (hu : u.Settled) :
    ∃ nt k, u.nt.Takes jobs nt ∧ happen s f = .next { u with nt := nt, freeCount := k } := by
  obtain ⟨nt, k, ht, hc⟩ := close_settled_jobs hu jobs
  exact ⟨nt, k, ht, by rw [happen_open hr hw, hf, hc]⟩

/-- A word that acts: a WRITE frame stands at its address (R182). -/
theorem word_acts {e : Ev} {a : WordAddr} {f : Ev → Ev} (h : e.st.mgmt.frame = .writing a) :
    e.word a f = (f e).map (fun s => s.setMgmt (s.mgmt.moved a)) := by
  unfold Ev.word
  rw [if_pos h]
  rfl

/-- A word that is not taken: no WRITE frame stands at its address (R181, R182). -/
theorem word_elsewhere {e : Ev} {a : WordAddr} {f : Ev → Ev} (h : e.st.mgmt.frame ≠ .writing a) : e.word a f = e := by
  unfold Ev.word
  rw [if_neg h]

/-- A word whose own effect is settled and raises nothing. -/
theorem word_settled {s u : State} {a : WordAddr} {f : Ev → Ev} (hr : s.TakesWord a)
    (hf : f { st := s, jobs := [] } = { st := u, jobs := [] }) (hu : u.Settled) :
    happen s (fun e => e.word a f) = .next { u with mgmt := u.mgmt.moved a } := by
  apply event_settled hr.ready.released hr.ready.settled.drain
  · rw [word_acts (e := ⟨s, []⟩) hr.stands, hf]; rfl
  · exact hu.other rfl hu.noted.presented

/-- A word whose own effect keeps a held response held. -/
theorem word_ends {s u : State} {a : WordAddr} {f : Ev → Ev} {jobs : List NoticeJob} (hr : s.TakesWord a)
    (hf : f { st := s, jobs := [] } = { st := u, jobs := jobs }) (hu : u.responseHeld) :
    ∃ t, happen s (fun e => e.word a f) = .next t ∧ Ends { u with mgmt := u.mgmt.moved a } jobs t := by
  apply event_ends hr.ready.released hr.ready.settled.drain
  · rw [word_acts (e := ⟨s, []⟩) hr.stands, hf]; rfl
  · exact hu

end Sys2Proof.Machine
end

