-- ==== Sys2Proof/Laws/Ops.lean ====
section
/-! SUPPORT. What each shared operation can do, said once: the take, the fill, the grant, the frame start, the expiries,
the drain, the notice unit, the word of a frame, and the end of an event field by field. -/

namespace Sys2Proof.Machine

/-! ### The end of an event, field by field -/

/-- What the discard of a held response can be: nothing, a stray, an ABANDONED entry gone, or a ghost mark cleared
(R90, R93, R94, R95). -/
theorem discardResponse_cases (e : Ev) :
    e.discardResponse = e ∨
    (∃ r, e.st.downResp = some r ∧ e.st.oldestDue r.source = none ∧
      e.discardResponse =
        { st := e.st.setDownResp none, jobs := e.jobs ++ [.occur { source := 22, cause := .stray }] }) ∨
    (∃ r m, e.st.downResp = some r ∧ e.st.oldestDue r.source = some m ∧ m.state = .abandoned ∧
      e.discardResponse =
        { st := (e.st.setDownResp none).setOrder (removeEntry m.draw e.st.order), jobs := e.jobs }) ∨
    (∃ r m status ghost, e.st.downResp = some r ∧ e.st.oldestDue r.source = some m ∧ m.state = .made status ghost ∧
      e.discardResponse =
        { st := (e.st.setDownResp none).setOrder (setEntry m.draw (.made status false) e.st.order),
          jobs := e.jobs }) := by
  unfold Ev.discardResponse
  cases hr : e.st.downResp with
  | none => exact .inl rfl
  | some r =>
    cases hm : e.st.oldestDue r.source with
    | none => exact .inr (.inl ⟨r, rfl, hm, by simp only [hm]; rfl⟩)
    | some m =>
      cases hs : m.state with
      | abandoned => exact .inr (.inr (.inl ⟨r, m, rfl, hm, hs, by simp only [hm, hs]; rfl⟩))
      | made status ghost => exact .inr (.inr (.inr ⟨r, m, status, ghost, rfl, hm, hs, by simp only [hm, hs]; rfl⟩))
      | issued => exact .inl (by simp only [hm, hs])
      | queued => exact .inl (by simp only [hm, hs])

/-- The discard of a held response changes the response and the order table alone. -/
theorem discardResponse_rest (e : Ev) :
    e.discardResponse.st =
      { e.st with downResp := e.discardResponse.st.downResp, order := e.discardResponse.st.order } := by
  rcases discardResponse_cases e with h | ⟨_, _, _, h⟩ | ⟨_, _, _, _, _, h⟩ | ⟨_, _, _, _, _, _, _, h⟩ <;> rw [h] <;> rfl

/-- The judgements change the markers, the noted stall, the notice unit and the count of free choices, and nothing
else. -/
theorem judge_rest (e : Ev) :
    e.judge =
      { e.st with
        streams := e.judge.streams, up := { e.st.up with lacking := e.judge.up.lacking }, nt := e.judge.nt
        freeCount := e.judge.freeCount } := by
  have hn := (notify_spec e.noteShortfalls.noteStall).2
  unfold Ev.judge
  rw [noteStall_st] at hn
  generalize e.noteShortfalls.noteStall.notify = t at *
  rw [hn]
  simp only [State.setUp, noteShortfalls_st, State.setStreams]

/-- Stream n's record after the judgements: its marker alone may have been set. -/
theorem judge_stream (e : Ev) (n : StreamId) :
    e.judge.stream n = { e.st.stream n with noted := (e.st.stream n).noted || e.st.headShort n } := by
  have hn := (notify_spec e.noteShortfalls.noteStall).2
  have : e.judge.stream n = e.noteShortfalls.st.stream n := by
    unfold Ev.judge State.stream
    rw [hn, noteStall_st]
    rfl
  rw [this, noteShortfalls_stream]

/-- The notice unit after the judgements: it took the event's occurrences and those of the two judgements. -/
theorem judge_nt (e : Ev) :
    ∃ l : List NoticeJob, l.Perm e.noteShortfalls.noteStall.jobs ∧ e.judge.nt = e.st.nt.runAll l := by
  obtain ⟨⟨l, hp, hl⟩, -⟩ := notify_spec e.noteShortfalls.noteStall
  refine ⟨l, hp, ?_⟩
  unfold Ev.judge
  rw [hl, noteStall_st]
  simp only [State.setUp_nt, noteShortfalls_st, State.setStreams_nt]

/-- The completion that an event brings about: none, or the warm values, and no occurrence (R167). -/
theorem complete_cases (e : Ev) :
    (e.st.drained = false ∧ e.complete = e) ∨ (e.st.drained = true ∧ e.complete = e.map State.warmComplete) := by
  unfold Ev.complete
  cases h : e.st.drained with
  | false => exact .inl ⟨rfl, rfl⟩
  | true => exact .inr ⟨rfl, rfl⟩

/-- What holds of an event's own effect and is kept by the discard of a held response, by the fills, the completion and
the take that the event brings about and by the judgements holds at its end. -/
theorem close_induction {P : State → Prop}
    (hdiscard : ∀ e : Ev, P e.st → P e.discardResponse.st)
    (hfill : ∀ e : Ev, P e.st → P e.fill.st)
    (hcomplete : ∀ s : State, P s → s.drained = true → P s.warmComplete)
    (htake : ∀ (e : Ev) (r : Request), P e.st → e.st.takeable = some r → P (e.take r).st)
    (hjudge : ∀ e : Ev, P e.st → P e.judge) (e : Ev) (h : P e.st) : P e.close := by
  apply hjudge
  apply hfill
  have h0 : P e.discardResponse.fill.st := hfill _ (hdiscard e h)
  have h1 : P e.discardResponse.fill.complete.st := by
    rcases complete_cases e.discardResponse.fill with ⟨-, hc⟩ | ⟨hd, hc⟩ <;> rw [hc]
    · exact h0
    · exact hcomplete _ h0 hd
  unfold Ev.takeIfAble
  cases ht : e.discardResponse.fill.complete.st.takeable with
  | none => exact h1
  | some r => exact htake _ r h1 ht

/-- The same of the end of a start, which has no completion. -/
theorem closeStart_induction {P : State → Prop}
    (hdiscard : ∀ e : Ev, P e.st → P e.discardResponse.st)
    (hfill : ∀ e : Ev, P e.st → P e.fill.st)
    (htake : ∀ (e : Ev) (r : Request), P e.st → e.st.takeable = some r → P (e.take r).st)
    (hjudge : ∀ e : Ev, P e.st → P e.judge) (e : Ev) (h : P e.st) : P e.closeStart := by
  apply hjudge
  apply hfill
  have h0 : P e.discardResponse.fill.st := hfill _ (hdiscard e h)
  unfold Ev.takeIfAble
  cases ht : e.discardResponse.fill.st.takeable with
  | none => exact h0
  | some r => exact htake _ r h0 ht

/-- What holds of a state holds after an event at it, where the end of every event keeps it and so does the event's own
effect, which a completion may come before. -/
theorem happen_induction {P : State → Prop} (hclose : ∀ e : Ev, P e.st → P e.close) {f : Ev → Ev}
    (hf : ∀ e : Ev, P e.st → P (f e).st) {s t : State} (h : P s) (ht : happen s f = .next t) : P t := by
  have h1 : P (Ev.follow { st := s, jobs := [] }).st := by
    unfold Ev.follow
    split
    · exact hclose _ h
    · exact h
  unfold happen event at ht
  split at ht <;> cases ht
  · exact h
  · exact hclose _ (hf _ h1)

/-- The same of a request for a warm reset. -/
theorem askReset_induction {P : State → Prop} (hclose : ∀ e : Ev, P e.st → P e.close)
    (hstart : ∀ e : Ev, P e.st → P e.closeStart) {f : Ev → Ev} (hf : ∀ e : Ev, P e.st → P (f e).st) {s t : State}
    (h : P s) (ht : askReset s f = .next t) : P t := by
  unfold askReset event at ht
  split at ht
  · cases ht; exact h
  · simp only [Host.Outcome.next.injEq] at ht
    subst ht
    split
    · exact hclose _ (hf _ h)
    · exact hstart _ (hf _ h)

/-! ### Order entries (06) -/

@[simp] theorem setEntry_length (d : Nat) (es : EntryState) (l : List OrderEntry) : (setEntry d es l).length = l.length := by
  simp [setEntry]

/-- An entry in another state keeps everything that it shares with its record, and no entry moves. -/
@[simp] theorem setEntry_shared (d : Nat) (es : EntryState) (l : List OrderEntry) :
    (setEntry d es l).map OrderEntry.shared = l.map OrderEntry.shared := by
  simp only [setEntry, List.map_map]
  apply List.map_congr_left
  intro e _
  simp only [Function.comp_apply]
  split <;> rfl

@[simp] theorem setEntry_draws (d : Nat) (es : EntryState) (l : List OrderEntry) :
    (setEntry d es l).map (fun e => e.draw) = l.map (fun e => e.draw) := by
  simp only [setEntry, List.map_map]
  apply List.map_congr_left
  intro e _
  simp only [Function.comp_apply]
  split <;> rfl

/-- An entry leaves and the others keep their order. -/
theorem removeEntry_sublist (d : Nat) (l : List OrderEntry) : (removeEntry d l).Sublist l := List.filter_sublist

theorem mem_removeEntry {d : Nat} {l : List OrderEntry} {e : OrderEntry} :
    e ∈ removeEntry d l ↔ e ∈ l ∧ e.draw ≠ d := by simp [removeEntry]

/-! ### One record rewritten -/

@[simp] theorem updAt_id {α : Type} {k : Nat} (v : Vector α k) (i : Fin k) : updAt v i id = v := by
  apply table_ext
  intro j
  rw [cell_updAt]
  split
  · rfl
  · rfl

@[simp] theorem updAt_updAt {α : Type} {k : Nat} (v : Vector α k) (i : Fin k) (f g : α → α) :
    updAt (updAt v i f) i g = updAt v i (fun a => g (f a)) := by
  apply table_ext
  intro j
  simp only [cell_updAt]
  split <;> simp

theorem onStream_id (s : State) (n : StreamId) : s.onStream n id = s := by simp only [State.onStream, updAt_id]; rfl

theorem onStream_onStream (s : State) (n : StreamId) (f g : Stream → Stream) :
    (s.onStream n f).onStream n g = s.onStream n (fun st => g (f st)) := by
  simp only [State.onStream, State.setStreams_streams, updAt_updAt]; rfl

/-! ### Admission and the take (03) -/

/-- Fitting a list gives the announced number of beats. -/
@[simp] theorem fitBeats_length (n : Nat) : ∀ l : List Beat, (fitBeats n l).length = n := by
  induction n with
  | zero => intro l; rfl
  | succ n ih => intro l; cases l <;> simp [fitBeats, ih]

/-- A list of the announced length is carried as it is. -/
theorem fitBeats_exact (l : List Beat) : fitBeats l.length l = l := by
  induction l with
  | nil => rfl
  | cons b l ih => simp [fitBeats, ih]

/-- The tests of admission: the outcome and what it says (R33, R38, R41, R42, R43). -/
theorem admission_cases (s : State) (r : Request) :
    (s.admission r = .malformed ∧ r.wellFormed = false) ∨
    (s.admission r = .overflow (s.classify r) ∧ r.wellFormed = true ∧
      (s.stream (s.classify r)).live.holdLimit ≤ (s.queue (s.classify r)).length) ∨
    (s.admission r = .refused (s.classify r) ∧ r.wellFormed = true ∧
      (s.queue (s.classify r)).length < (s.stream (s.classify r)).live.holdLimit ∧
      s.refuses (s.classify r) r.beats.toNat = true) ∨
    (s.admission r = .kept (s.classify r) ∧ r.wellFormed = true ∧
      (s.queue (s.classify r)).length < (s.stream (s.classify r)).live.holdLimit ∧
      s.refuses (s.classify r) r.beats.toNat = false) := by
  unfold State.admission
  cases hw : r.wellFormed with
  | false => exact .inl ⟨by simp, rfl⟩
  | true =>
    by_cases hl : (s.stream (s.classify r)).live.holdLimit ≤ (s.queue (s.classify r)).length
    · exact .inr (.inl ⟨by simp [hl], rfl, hl⟩)
    · cases hf : s.refuses (s.classify r) r.beats.toNat with
      | true => exact .inr (.inr (.inl ⟨by simp [hl, hf], rfl, by omega, rfl⟩))
      | false => exact .inr (.inr (.inr ⟨by simp [hl, hf], rfl, by omega, rfl⟩))

/-- A take that R32 lets, or nothing. -/
theorem takeIfAble_cases (e : Ev) :
    (e.st.takeable = none ∧ e.takeIfAble = e) ∨ (∃ r, e.st.takeable = some r ∧ e.takeIfAble = e.take r) := by
  unfold Ev.takeIfAble
  cases h : e.st.takeable with
  | none => exact .inl ⟨rfl, rfl⟩
  | some r => exact .inr ⟨r, rfl, rfl⟩

/-- A take draws a number, appends an entry, adds a record and a WRITE's beats if the request is kept, and rewrites its
own stream's record alone; everything else stays (R37 to R44). -/
theorem take_cases (e : Ev) (r : Request) :
    (∃ (stream : Option StreamId) (n : StreamId) (f : Stream → Stream) (jobs : List NoticeJob),
      e.take r =
        { st := (e.st.takeOffer r stream (.made .refused false)).onStream n f, jobs := e.jobs ++ jobs } ∧
      ∀ st, (f st).live = st.live ∧ (f st).pend = st.pend ∧ (f st).pendingValid = st.pendingValid ∧
        (f st).mode = st.mode ∧ (f st).credit = st.credit ∧ (f st).issueCount = st.issueCount) ∨
    (e.st.admission r = .kept (e.st.classify r) ∧
      ∃ f : Stream → Stream, e.take r =
        { st := (e.st.keep r (e.st.classify r)).onStream (e.st.classify r) f, jobs := e.jobs } ∧
      ∀ st, (f st).live = st.live ∧ (f st).pend = st.pend ∧ (f st).pendingValid = st.pendingValid ∧
        (f st).mode = st.mode ∧ (f st).credit = st.credit ∧ (f st).issueCount = st.issueCount) := by
  rcases admission_cases e.st r with ⟨h, -⟩ | ⟨h, -⟩ | ⟨h, -⟩ | ⟨h, -⟩
  · left
    refine ⟨none, 0, id, [.occur { source := 22, cause := .malformed }], ?_, fun _ => ⟨rfl, rfl, rfl, rfl, rfl, rfl⟩⟩
    simp only [Ev.take, h, onStream_id]; rfl
  · left
    refine ⟨some (e.st.classify r), e.st.classify r, Stream.refused,
      [.occur { source := streamSource (e.st.classify r), cause := .overflow }], ?_,
      fun _ => ⟨rfl, rfl, rfl, rfl, rfl, rfl⟩⟩
    simp only [Ev.take, h]; rfl
  · left
    by_cases hc : (e.st.stream (e.st.classify r)).credit < r.beats.toNat ∧ (e.st.stream (e.st.classify r)).noted = false
    · refine ⟨some (e.st.classify r), e.st.classify r, fun st => { st.refused with noted := true },
        [.occur { source := streamSource (e.st.classify r), cause := .refused },
          .occur { source := streamSource (e.st.classify r), cause := .credit }], ?_,
        fun _ => ⟨rfl, rfl, rfl, rfl, rfl, rfl⟩⟩
      simp only [Ev.take, h, hc, and_self, if_true, Ev.map, Ev.raise, onStream_onStream, List.append_assoc, List.cons_append,
        List.nil_append]
    · refine ⟨some (e.st.classify r), e.st.classify r, Stream.refused,
        [.occur { source := streamSource (e.st.classify r), cause := .refused }], ?_,
        fun _ => ⟨rfl, rfl, rfl, rfl, rfl, rfl⟩⟩
      simp only [Ev.take, h, hc, if_false, Ev.map, Ev.raise]
  · right
    refine ⟨h, ?_⟩
    by_cases hc : (e.st.keep r (e.st.classify r)).eligible (e.st.newRecord r (e.st.classify r)) = true
    · refine ⟨id, ?_, fun _ => ⟨rfl, rfl, rfl, rfl, rfl, rfl⟩⟩
      simp only [Ev.take, h, hc, if_true, Ev.map, onStream_id]
    · refine ⟨Stream.waited, ?_, fun _ => ⟨rfl, rfl, rfl, rfl, rfl, rfl⟩⟩
      simp only [Ev.take, h, hc]; rfl

/-! ### The grant, the fill (05, 06) -/

/-- A grant of the arbiter's choice into the empty issue stage, or nothing (R74, R78). -/
theorem grant_cases (e : Ev) :
    (e.grant = e ∧ (e.st.issue.stage ≠ none ∨ e.st.grantChoice = none)) ∨
    (∃ r, e.st.issue.stage = none ∧ e.st.grantChoice = some r ∧ e.grant = e.map (fun s => s.grantTo r)) := by
  unfold Ev.grant State.grantReady
  cases hs : e.st.issue.stage with
  | some q => exact .inl ⟨rfl, .inl (by simp)⟩
  | none =>
    cases hg : e.st.grantChoice with
    | none => exact .inl ⟨rfl, .inr rfl⟩
    | some r => exact .inr ⟨r, rfl, rfl, rfl⟩

/-- What an answerable response is (R91). -/
theorem answerable_some {s : State} {r : Response} {m : OrderEntry} (h : s.answerable = some (r, m)) :
    s.downResp = some r ∧ s.oldestDue r.source = some m ∧ m.state = .issued ∧
      ∃ f, s.answerFront r.source = some f ∧ f.draw = m.draw := by
  unfold State.answerable at h
  cases h1 : s.downResp with
  | none => simp [h1] at h
  | some q =>
    simp only [h1] at h
    cases h2 : s.oldestDue q.source with
    | none => simp [h2] at h
    | some m' =>
      cases h3 : s.answerFront q.source with
      | none => simp [h2, h3] at h
      | some f =>
        simp only [h2, h3] at h
        split at h
        · next h4 => cases h; exact ⟨rfl, h2, h4.1, f, h3, h4.2⟩
        · cases h

/-- A memory answer fills the stage, frees the channel, removes its entry, and rewrites the entry's stream alone (R91). -/
theorem memoryAnswer_cases (e : Ev) (r : Response) (m : OrderEntry) :
    ∃ a : Answer, a.source = r.source ∧
      (let s1 :=
        ((e.st.setAnswer { e.st.answer with stage := some a }).setOrder (removeEntry m.draw e.st.order)).setDownResp none
      (m.stream = none ∧ e.memoryAnswer r m = { st := s1, jobs := e.jobs }) ∨
      ∃ n jobs, m.stream = some n ∧
        e.memoryAnswer r m = { st := s1.onStream n (fun st => st.answered r.isOk), jobs := e.jobs ++ jobs } ∧
        (r.isOk = true ∧ jobs = [] ∨
          r.isOk = false ∧ jobs = [.occur { source := streamSource n, cause := .memerr }])) := by
  refine ⟨{ source := r.source, status := if r.isOk then .ok else .memerr, data := r.answerData m.kind m.beats }, rfl,
    ?_⟩
  cases hm : m.stream with
  | none => exact .inl ⟨rfl, by simp only [Ev.memoryAnswer, hm]; rfl⟩
  | some n =>
    cases hk : r.isOk with
    | true => exact .inr ⟨n, [], rfl, by simp only [Ev.memoryAnswer, hm, hk, List.append_nil]; rfl, .inl ⟨rfl, rfl⟩⟩
    | false =>
      exact .inr ⟨n, [.occur { source := streamSource n, cause := .memerr }], rfl,
        by simp only [Ev.memoryAnswer, hm, hk]; rfl, .inr ⟨rfl, rfl⟩⟩

/-- A fill: nothing, a memory answer, or a local answer; the stage was empty for either (R97). -/
theorem fill_cases (e : Ev) :
    e.fill = e ∨
    (∃ r m, e.st.answer.stage = none ∧ e.st.answerable = some (r, m) ∧ e.fill = e.memoryAnswer r m) ∨
    (∃ f, e.st.answer.stage = none ∧ e.st.answerable = none ∧ e.st.localChoice = some f ∧
      e.fill = e.map (fun s => s.localAnswer f)) := by
  unfold Ev.fill
  cases hs : e.st.answer.stage with
  | some a => exact .inl rfl
  | none =>
    cases ha : e.st.answerable with
    | some p => exact .inr (.inl ⟨p.1, p.2, rfl, rfl, rfl⟩)
    | none =>
      cases hl : e.st.localChoice with
      | none => exact .inl rfl
      | some f => exact .inr (.inr ⟨f, rfl, rfl, rfl, rfl⟩)

/-- The local choice is the LOCAL answer front of its source (R97, R99). -/
theorem localChoice_some {s : State} {f : OrderEntry} (h : s.localChoice = some f) :
    ∃ S, s.answerFront S = some f ∧ f.source = S ∧ ∃ status ghost, f.state = .made status ghost := by
  obtain ⟨S, -, hS⟩ := List.exists_of_findSome?_eq_some h
  unfold State.localFront at hS
  obtain ⟨hf, hl⟩ := Option.filter_eq_some_iff.mp hS
  refine ⟨S, hf, ?_, ?_⟩
  · have := List.find?_some hf
    simp only [Bool.and_eq_true, beq_iff_eq] at this
    exact this.1
  · cases hs : f.state with
    | made status ghost => exact ⟨status, ghost, rfl⟩
    | queued => simp [hs, EntryState.isLocal] at hl
    | issued => simp [hs, EntryState.isLocal] at hl
    | abandoned => simp [hs, EntryState.isLocal] at hl

/-- A memory answer occupies the stage (R91). -/
theorem memoryAnswer_stage (e : Ev) (r : Response) (m : OrderEntry) : ∃ a, (e.memoryAnswer r m).st.answer.stage = some a := by
  obtain ⟨a, -, ⟨-, h⟩ | ⟨n, jobs, -, h, -⟩⟩ := memoryAnswer_cases e r m <;> exact ⟨a, by rw [h]; rfl⟩

/-- A local answer occupies the stage (R98). -/
theorem localAnswer_stage {s : State} {f : OrderEntry} (h : s.localChoice = some f) :
    ∃ a, (s.localAnswer f).answer.stage = some a := by
  obtain ⟨-, -, -, status, ghost, hs⟩ := localChoice_some h
  exact ⟨_, by simp only [State.localAnswer, hs]; rfl⟩

/-- After a fill none is due (R97). -/
theorem fill_answersWait (e : Ev) : e.fill.st.answersWait := by
  unfold Ev.fill
  cases hs : e.st.answer.stage with
  | some a => exact answersWait_of_occupied hs
  | none =>
    cases ha : e.st.answerable with
    | some p => exact answersWait_of_occupied (memoryAnswer_stage e p.1 p.2).choose_spec
    | none =>
      cases hl : e.st.localChoice with
      | none => exact fun _ => ⟨ha, hl⟩
      | some f => exact answersWait_of_occupied (localAnswer_stage hl).choose_spec

@[simp] theorem fill_fill (e : Ev) : e.fill.fill = e.fill := fill_of_waits (fill_answersWait e)

/-- A take leaves the answer block and the response on DOWN as they are. -/
theorem take_answer (e : Ev) (r : Request) :
    (e.take r).st.answer = e.st.answer ∧ (e.take r).st.downResp = e.st.downResp := by
  rcases take_cases e r with ⟨_, _, _, _, h, -⟩ | ⟨-, _, h, -⟩ <;> rw [h]
  · exact ⟨rfl, rfl⟩
  · unfold State.keep
    cases r.kind <;> exact ⟨rfl, rfl⟩

/-- With the answer stage occupied an event brings about a take at most. -/
theorem brings_of_occupied {e : Ev} {a : Answer} (h : e.st.answer.stage = some a) : e.brings = e.takeIfAble := by
  have hd : e.st.drainWaits := fun _ ho => by rw [ho.2.2] at h; cases h
  unfold Ev.brings
  rw [fill_of_waits (answersWait_of_occupied h), complete_of_waits hd]
  apply fill_of_waits
  rcases takeIfAble_cases e with ⟨-, hc⟩ | ⟨r, -, hc⟩ <;> rw [hc]
  · exact answersWait_of_occupied h
  · exact answersWait_of_occupied (by rw [(take_answer e r).1]; exact h)

/-- No event leaves a fill due (R97). -/
theorem close_answersWait (e : Ev) : e.close.answersWait := by
  have h := fill_answersWait e.discardResponse.fill.complete.takeIfAble
  show e.discardResponse.brings.judge.answersWait
  rw [judge_rest]
  exact h

/-! ### Timers (08) -/

/-- A tick at a timer: ignored, one count more, or a frame start (R124). -/
theorem tick_cases (e : Ev) (t : TimerId) :
    (e.tick t = e ∧ (e.st.timer t).state ≠ .running) ∨
    ((e.st.timer t).state = .running ∧ (e.st.timer t).count + 1 = (e.st.timer t).frameLength ∧
      e.tick t = e.frameStart t .tick) ∨
    ((e.st.timer t).state = .running ∧ (e.st.timer t).count + 1 ≠ (e.st.timer t).frameLength ∧
      e.tick t = e.map (fun s => s.onTimer t (fun x => { x with count := x.count + 1 }))) := by
  unfold Ev.tick
  cases hs : (e.st.timer t).state with
  | stopped => exact .inl ⟨by simp only [hs], by simp⟩
  | armed => exact .inl ⟨by simp only [hs], by simp⟩
  | running =>
    by_cases hc : (e.st.timer t).count + 1 = (e.st.timer t).frameLength
    · exact .inr (.inl ⟨rfl, hc, by simp only [hs, hc, if_true]⟩)
    · exact .inr (.inr ⟨rfl, hc, by simp only [hs, hc, if_false]⟩)

/-- A sync edge at a timer: ignored while STOPPED, otherwise a frame start after which it is RUNNING (R125). -/
theorem syncEdge_cases (e : Ev) (t : TimerId) :
    (e.syncEdge t = e ∧ (e.st.timer t).state = .stopped) ∨
    ((e.st.timer t).state = .armed ∧
      e.syncEdge t = (e.map (fun s => s.onTimer t (fun x => { x with state := .running }))).frameStart t .syncEdge) ∨
    ((e.st.timer t).state = .running ∧ e.syncEdge t = e.frameStart t .syncEdge) := by
  unfold Ev.syncEdge
  cases hs : (e.st.timer t).state with
  | stopped => exact .inl ⟨rfl, rfl⟩
  | armed => exact .inr (.inl ⟨rfl, rfl⟩)
  | running => exact .inr (.inr ⟨rfl, rfl⟩)

/-- A cascade tick made, or none: the counts of cascade ticks alone change (R129). -/
theorem makeCascade_rest (s : State) (t : TimerId) (cause : FrameCause) :
    s.makeCascade t cause = s.setCascades (s.makeCascade t cause).cascades := by
  unfold State.makeCascade
  split <;> rfl

/-- A frame start changes its timer, the deliveries and the cascade ticks, and raises WRAP and, for a tick in a sync
mode, SYNC_MISSED (R124, R127). -/
theorem frameStart_cases (e : Ev) (t : TimerId) (cause : FrameCause) :
    ∃ cascades,
      e.frameStart t cause =
        { st := ((e.st.onTimer t Timer.frameStart).setDeliveries
            (e.st.deliveries ++ (List.finRange 16).map (fun n => (t, n)))).setCascades cascades
          jobs := e.jobs ++ [.occur { source := timerSource t, cause := .wrap }] ++
            (if cause = .tick ∧ (e.st.timer t).sync ≠ .free then
              [.occur { source := timerSource t, cause := .syncMissed }] else []) } := by
  refine ⟨(((e.st.onTimer t Timer.frameStart).setDeliveries
    (e.st.deliveries ++ (List.finRange 16).map (fun n => (t, n)))).makeCascade t cause).cascades, ?_⟩
  rw [← makeCascade_rest]
  unfold Ev.frameStart
  by_cases hc : cause = .tick ∧ (e.st.timer t).sync ≠ .free
  · rw [if_pos hc]
    have : (cause == FrameCause.tick && (e.st.timer t).sync != SyncMode.free) = true := by simpa using hc
    simp only [this, if_true, Ev.raise, Ev.map]
  · rw [if_neg hc]
    have : (cause == FrameCause.tick && (e.st.timer t).sync != SyncMode.free) = false := by
      rw [Bool.eq_false_iff]; simpa using hc
    simp only [this, Bool.false_eq_true, if_false, Ev.raise, Ev.map, List.append_nil]

/-- A frame start keeps the count below the frame length where the lengths are at least 1 (R120, R127). -/
theorem frameStart_inRange {x : Timer} (h : x.InRange) : x.frameStart.InRange := by
  have h1 := h.count
  have h2 := h.pendingAbove
  refine ⟨?_, ?_, h.pendingAbove, h.pendingBelow⟩ <;> unfold Timer.frameStart <;> dsimp only <;> split
  · omega
  · omega
  · exact h.pendingBelow
  · exact h.frameLength

/-! ### Age supervision (07) -/

/-- The closure marks the records of the store and moves none (R110). -/
@[simp] theorem urgencyClosure_fst (seed : StoreRec → Bool) :
    ∀ store : List StoreRec, (urgencyClosure seed store).map Prod.fst = store := by
  intro store
  induction store with
  | nil => rfl
  | cons r later ih => simp [urgencyClosure, ih]

/-- The removal of records changes the store, the buffer and the order table alone (R46, R51). -/
theorem removeRecords_rest (s : State) (sel : StoreRec → Bool) (es : EntryState) :
    s.removeRecords sel es =
      { s with
        store := s.store.filter (fun r => !sel r), wdb := (s.removeRecords sel es).wdb,
        order := (s.removeRecords sel es).order } := rfl

/-- The expiries of an event change the store, the buffer, the order table and counters alone (R107, R109). -/
theorem ageRecords_rest (e : Ev) (sel : StoreRec → Bool) :
    (e.ageRecords sel).st =
      { e.st with
        store := (e.ageRecords sel).st.store, wdb := (e.ageRecords sel).st.wdb, order := (e.ageRecords sel).st.order
        streams := (e.ageRecords sel).st.streams } := rfl

/-- A stream's record after the expiries of an event: its expired requests alone may have risen (R109). -/
theorem ageRecords_stream (e : Ev) (sel : StoreRec → Bool) (n : StreamId) :
    ∃ k, (e.ageRecords sel).st.stream n = (e.st.stream n).expired k := by
  refine ⟨(e.st.store.filter (fun r => sel r && r.lastTick)).countP (fun r => r.stream == n), ?_⟩
  simp only [Ev.ageRecords, State.setStreams_stream, cell_mapAll]
  rfl

/-! ### Device control (10) -/

/-- An age tick at the drain timer: nothing, one count more, or the drain timeout (R165, R166). -/
theorem drainTick_cases (e : Ev) :
    e.drainTick = e ∨ (e.st.dev.atTimeout = true ∧ e.drainTick = e.drainTimeout) ∨
    (e.st.dev.atTimeout = false ∧ e.st.dev.mode = .draining ∧ e.st.dev.drainRunning = true ∧
      e.drainTick = e.map (fun s => s.setDev { s.dev with drainTimer := s.dev.drainNext })) := by
  unfold Ev.drainTick
  cases ht : e.st.dev.atTimeout with
  | true => exact .inr (.inl ⟨rfl, rfl⟩)
  | false =>
    by_cases hc : e.st.dev.mode = .draining ∧ e.st.dev.drainRunning = true
    · exact .inr (.inr ⟨rfl, hc.1, hc.2, by simp [hc]⟩)
    · exact .inl (by simp [hc])

/-- The start of a warm reset, field by field (R162, R163). -/
theorem warmStart_fields (s : State) :
    s.warmStart =
      { s with
        dev := { s.dev with mode := .draining, drainRunning := true, drainTimer := 0 }
        store := [], wdb := s.wdb.filter s.stageHolds, order := abortQueued s.order
        timers := mapAll s.timers (fun _ t => t.stop), nt := s.nt.warmStart
        up := { s.up with lacking := Lacking.none } } := by
  simp only [State.warmStart, State.setDev, State.setStore, State.setWdb, State.setOrder, State.setTimers, State.setNt,
    State.setUp]

/-- The completion of a warm reset, field by field (R167). -/
theorem warmComplete_fields (s : State) :
    s.warmComplete =
      { s with
        dev := { s.dev with mode := .bypass, drainRunning := false }
        streams := mapAll s.streams (fun _ st => st.warm)
        issue := { stage := none, ptr := Vector.replicate 8 15 }, answer := { stage := none, ptr := 63 }
        timers := mapAll s.timers (fun _ t => { t with state := .stopped, count := 0 })
        mgmt := { s.mgmt with snapshot := Snapshot.empty } } := by
  simp only [State.warmComplete, State.setDev, State.setStreams, State.setIssue, State.setAnswer, State.setTimers,
    State.setMgmt]

/-! ### The completion that follows a start (R161, R167) -/

/-- A take changes neither the device control nor cold reset. -/
theorem take_dev (e : Ev) (r : Request) : (e.take r).st.dev = e.st.dev ∧ (e.take r).st.inReset = e.st.inReset := by
  rcases take_cases e r with ⟨_, _, _, _, h, -⟩ | ⟨-, _, h, -⟩ <;> rw [h]
  · exact ⟨rfl, rfl⟩
  · unfold State.keep
    cases r.kind <;> exact ⟨rfl, rfl⟩

/-- Nor does a fill. -/
theorem fill_dev (e : Ev) : e.fill.st.dev = e.st.dev ∧ e.fill.st.inReset = e.st.inReset := by
  rcases fill_cases e with h | ⟨r, m, -, -, h⟩ | ⟨f, -, -, -, h⟩ <;> rw [h]
  · exact ⟨rfl, rfl⟩
  · obtain ⟨a, -, ⟨-, h⟩ | ⟨n, jobs, -, h, -⟩⟩ := memoryAnswer_cases e r m <;> rw [h] <;> exact ⟨rfl, rfl⟩
  · unfold Ev.map State.localAnswer
    dsimp only
    split <;> exact ⟨rfl, rfl⟩

/-- The completion leaves BYPASS and does not touch cold reset (R167). -/
theorem warmComplete_dev (s : State) : s.warmComplete.dev.mode = .bypass ∧ s.warmComplete.inReset = s.inReset := by
  rw [warmComplete_fields]
  exact ⟨rfl, rfl⟩

/-- With none but ABANDONED entries no answer is ready. -/
theorem State.drainOver.answersWait {s : State} (h : s.drainOver) : s.answersWait := by
  refine fun _ => ⟨?_, ?_⟩
  · cases ha : s.answerable with
    | none => rfl
    | some p =>
      obtain ⟨-, hm, hi, -⟩ := answerable_some (r := p.1) (m := p.2) ha
      have := h.1 _ (List.mem_of_find?_eq_some hm)
      rw [this] at hi; cases hi
  · cases hl : s.localChoice with
    | none => rfl
    | some f =>
      obtain ⟨S, hf, -, status, ghost, hs⟩ := localChoice_some hl
      have := h.1 _ (List.mem_of_find?_eq_some hf)
      rw [this] at hs; cases hs

/-- No event but a start leaves a drain that is over (R167). -/
theorem close_drainWaits (e : Ev) : e.close.drainWaits := by
  have hj : ∀ u : Ev, u.st.drainWaits → u.judge.drainWaits := fun u h => by
    rw [judge_rest]
    exact h
  have ht : ∀ u : Ev, u.takeIfAble.st.dev = u.st.dev := fun u => by
    rcases takeIfAble_cases u with ⟨-, h⟩ | ⟨r, -, h⟩ <;> rw [h]
    exact (take_dev u r).1
  unfold Ev.close Ev.brings
  apply hj
  have hw := fill_answersWait e.discardResponse
  generalize e.discardResponse.fill = f at hw
  rcases complete_cases f with ⟨hd, hc⟩ | ⟨-, hc⟩ <;> rw [hc]
  · have hwait : f.st.drainWaits := fun hm ho => by
      rw [(drained_iff _).mpr ⟨hm, ho⟩] at hd
      cases hd
    by_cases hm : f.st.dev.mode = .draining
    · rw [takeIfAble_of_waits (offerWaits_of_draining hm), fill_of_waits hw]
      exact hwait
    · apply drainWaits_of_mode
      rwa [(fill_dev _).1, ht]
  · apply drainWaits_of_mode
    rw [(fill_dev _).1, ht, Ev.map, (warmComplete_dev _).1]
    decide

/-- The completion that follows a start leaves BYPASS, out of cold reset. -/
theorem State.Begun.close {s : State} (h : s.Begun) :
    (Ev.close { st := s, jobs := [] }).inReset = false ∧ (Ev.close { st := s, jobs := [] }).dev.mode = .bypass := by
  have hd : s.drained = true := (drained_iff s).mpr ⟨h.mode, h.ended⟩
  unfold Ev.close Ev.brings
  rw [discardResponse_held h.noted.response, fill_of_waits (e := ⟨s, []⟩) h.ended.answersWait, judge_rest]
  have hc : Ev.complete { st := s, jobs := [] } = { st := s.warmComplete, jobs := [] } := by
    unfold Ev.complete
    rw [if_pos hd]; rfl
  rw [hc]
  obtain ⟨hm, hi⟩ := warmComplete_dev s
  rw [h.released] at hi
  generalize s.warmComplete = u at hm hi ⊢
  dsimp only
  rw [(fill_dev _).1, (fill_dev _).2]
  rcases takeIfAble_cases { st := u, jobs := [] } with ⟨-, ht⟩ | ⟨r, -, ht⟩ <;> rw [ht]
  · exact ⟨hi, hm⟩
  · rw [(take_dev _ r).1, (take_dev _ r).2]
    exact ⟨hi, hm⟩

/-- An event other than a request for a warm reset comes after the completion that follows a start. -/
theorem happen_begun {s : State} (h : s.Begun) (f : Ev → Ev) : happen s f = happen (Ev.close { st := s, jobs := [] }) f := by
  obtain ⟨hi, hm⟩ := h.close
  rw [happen_open hi (drainWaits_of_mode (by rw [hm]; decide))]
  unfold happen
  rw [event_open h.released]
  unfold Ev.follow
  rw [if_pos ((drained_iff s).mpr ⟨h.mode, h.ended⟩)]

/-! ### Notice unit (09) -/

/-- A cause joins a cause set and nothing else changes (R141). -/
theorem join_rest (nt : Notices) (x : NoticeId) (cs : CauseSet) :
    nt.join x cs = { nt with sources := (nt.join x cs).sources } := rfl

/-- An occurrence changes cause sets and the handshake queue alone (R141, R149). -/
theorem occur_rest (nt : Notices) (o : Occurrence) :
    nt.occur o = { nt with sources := (nt.occur o).sources, queue := (nt.occur o).queue } := by
  have hj : ∀ (n : Notices) (x : NoticeId) (cs : CauseSet),
      n.join x cs = { n with sources := (n.join x cs).sources, queue := (n.join x cs).queue } := fun _ _ _ => rfl
  have ho : ∀ n : Notices, n.overflowed = { n with sources := n.overflowed.sources, queue := n.overflowed.queue } := by
    intro n
    unfold Notices.overflowed
    dsimp only
    split
    · rfl
    · split <;> rfl
  have hh : ∀ (n : Notices) (p : Occurrence),
      n.toHandshake p = { n with sources := (n.toHandshake p).sources, queue := (n.toHandshake p).queue } := by
    intro n p
    unfold Notices.toHandshake
    split
    · rfl
    · split
      · rfl
      · rw [ho]; rfl
  unfold Notices.occur
  split
  · rfl
  · split
    · rw [hh]; rfl
    · rw [hh]

/-- No occurrence changes a source's enable, level, route or notify-after (R141). -/
theorem occur_setting (nt : Notices) (o : Occurrence) (x : NoticeId) :
    ∃ cs, cell (nt.occur o).sources x = { cell nt.sources x with causes := cs } := by
  have hj : ∀ (n : Notices) (y : NoticeId) (c : CauseSet),
      ∃ cs, cell (n.join y c).sources x = { cell n.sources x with causes := cs } := by
    intro n y c
    by_cases h : y = x
    · subst h; exact ⟨(cell n.sources y).causes ||| c, by simp [Notices.join]⟩
    · exact ⟨(cell n.sources x).causes, by simp [Notices.join, cell_updAt, h]⟩
  have ho : ∀ n : Notices, ∃ cs, cell n.overflowed.sources x = { cell n.sources x with causes := cs } := by
    intro n
    unfold Notices.overflowed
    dsimp only
    split
    · exact hj _ _ _
    · split
      · exact ⟨(cell n.sources x).causes, rfl⟩
      · exact hj _ _ _
  have hh : ∀ (n : Notices) (p : Occurrence),
      ∃ cs, cell (n.toHandshake p).sources x = { cell n.sources x with causes := cs } := by
    intro n p
    unfold Notices.toHandshake
    split
    · exact ⟨(cell n.sources x).causes, rfl⟩
    · split
      · exact ⟨(cell n.sources x).causes, rfl⟩
      · obtain ⟨c1, h1⟩ := ho (n.join p.source p.cause.bit)
        obtain ⟨c2, h2⟩ := hj n p.source p.cause.bit
        exact ⟨c1, by rw [h1, h2]⟩
  unfold Notices.occur
  split
  · exact hj _ _ _
  · split
    · obtain ⟨c1, h1⟩ := hh (nt.join o.source o.cause.bit) o
      obtain ⟨c2, h2⟩ := hj nt o.source o.cause.bit
      exact ⟨c1, by rw [h1, h2]⟩
    · exact hh _ _

/-! ### Words of a frame (12) -/

/-- A word: not taken, or the word's own effect and the frame's move (R182). -/
theorem word_cases (e : Ev) (a : WordAddr) (f : Ev → Ev) :
    (e.st.mgmt.frame ≠ .writing a ∧ e.word a f = e) ∨
    (e.st.mgmt.frame = .writing a ∧ e.word a f = (f e).map (fun s => s.setMgmt (s.mgmt.moved a))) := by
  by_cases h : e.st.mgmt.frame = .writing a
  · exact .inr ⟨h, word_acts h⟩
  · exact .inl ⟨h, word_elsewhere h⟩

/-- The header of a frame: nothing but the frame's state, or an unknown operation (R181). -/
theorem header_cases (e : Ev) (h : Header) :
    (e.st.mgmt.frame ≠ .header ∧ e.header h = e) ∨
    (e.st.mgmt.frame = .header ∧
      ((h.byte = 0xC5#8 ∧ e.header h = e.setFrame (.turnaround (h.high ++ h.low))) ∨
       (h.byte = 0xCA#8 ∧ e.header h = e.setFrame (.writing (h.high ++ h.low))) ∨
       (h.byte ≠ 0xC5#8 ∧ h.byte ≠ 0xCA#8 ∧
         e.header h = ((e.record .frame).raise 23 .mgmtFrame).setFrame .ignored))) := by
  unfold Ev.header decodeOperation Header.start
  by_cases hf : e.st.mgmt.frame = .header
  · refine .inr ⟨hf, ?_⟩
    by_cases h1 : h.byte = 0xC5#8
    · exact .inl ⟨h1, by simp [hf, h1]⟩
    · by_cases h2 : h.byte = 0xCA#8
      · exact .inr (.inl ⟨h2, by simp [hf, h2]⟩)
      · exact .inr (.inr ⟨h1, h2, by simp [hf, h1, h2]⟩)
  · exact .inl ⟨hf, by simp [hf]⟩

/-- A word of a READ frame: not captured, or the word at the frame's current address and the frame's move (R183). -/
theorem readWord_cases (e : Ev) (a : WordAddr) :
    (e.st.mgmt.frame ≠ .turnaround a ∧ e.st.mgmt.frame ≠ .reading a ∧ e.readWord a = e) ∨
    ((e.st.mgmt.frame = .turnaround a ∨ e.st.mgmt.frame = .reading a) ∧
      ((∃ w, e.st.wordAt a = some w ∧
          e.readWord a = e.map (fun s => s.setMgmt { s.mgmt with readWord := w, frame := .reading (a + 1) })) ∨
       (e.st.wordAt a = none ∧
          e.readWord a =
            (e.map (fun s => s.setMgmt { s.mgmt with readWord := 0, frame := .reading (a + 1) })).record .addr))) := by
  unfold Ev.readWord Ev.capture
  by_cases h : e.st.mgmt.frame = .turnaround a ∨ e.st.mgmt.frame = .reading a
  · refine .inr ⟨h, ?_⟩
    cases hw : e.st.wordAt a with
    | some w => exact .inl ⟨w, rfl, if_pos h⟩
    | none => exact .inr ⟨rfl, if_pos h⟩
  · exact .inl ⟨fun k => h (.inl k), fun k => h (.inr k), if_neg h⟩

/-! ### REFCLK periods and their ticks (R119) -/

/-- A tap ticks in the period that brings the divider to a multiple of 2^k. -/
theorem tapTicks_iff (n : BitVec 15) (k : Tap) : tapTicks n k = true ↔ tapDue n k := by
  unfold tapTicks tapDue
  rw [decide_eq_true_iff, Nat.dvd_iff_mod_eq_zero]

/-- Tap 0 ticks in every period. -/
@[simp] theorem tapTicks_zero (n : BitVec 15) : tapTicks n 0 = true := by
  rw [tapTicks_iff]
  exact ⟨n.toNat, by simp⟩

/-- A tick of a tap is one of every lower tap. -/
theorem tapDue_lower {n : BitVec 15} {j k : Tap} (h : tapDue n k) (hjk : j ≤ k) : tapDue n j :=
  Nat.dvd_trans (Nat.pow_dvd_pow 2 hjk) h

/-- Which timers take a tick in a period: those clocked by a tap that ticks in it (R119, R122). -/
theorem tickedAt_iff (x : Timer) (n : BitVec 15) : x.tickedAt n = true ↔ ∃ k, x.clock = .tap k ∧ tapDue n k := by
  unfold Timer.tickedAt
  cases x.clock <;> simp [tapTicks_iff]

/-- A timer awaits a tick of tap k: one is made for it and not yet taken. -/
theorem awaits_iff (s : State) (k : Tap) (t : TimerId) : s.awaits k t = true ↔ s.tickOwed k t := by
  simp [State.awaits, State.tickOwed, tapTicks_iff, and_assoc]

/-- Some timer awaits a tick of tap k. -/
theorem awaitsTap_iff (s : State) (k : Tap) : s.awaitsTap k = true ↔ ∃ t, s.tickOwed k t := by
  simp [State.awaitsTap, awaits_iff]

/-- The users of age ticks await one. -/
theorem awaitsAge_iff (s : State) : s.awaitsAge = true ↔ s.ageOwed := by
  simp [State.awaitsAge, tapTicks_iff]

/-- A period begins: the divider moves on and the ticks of the period are made. -/
theorem beginPeriod_eq (s : State) : s.beginPeriod = s.nextPeriod := by
  unfold State.beginPeriod State.nextPeriod
  simp only [State.setTimebase, State.setTimerTicks, State.setAgeDue, State.mk.injEq, true_and, and_true]
  constructor
  · congr 1
    funext t _
    rw [Bool.eq_iff_iff, tickedAt_iff, decide_eq_true_iff]
  · rw [Bool.eq_iff_iff, tapTicks_iff, decide_eq_true_iff]

/-- A tick of tap k: that of the present period where a timer awaits one, that of the next where the tap ticks in it, and
otherwise nothing. -/
theorem tapTick_cases (e : Ev) (k : Tap) :
    ((∃ t, e.st.tickOwed k t) ∧ e.tapTick k = e.takeTap k) ∨
    ((∀ t, ¬ e.st.tickOwed k t) ∧ tapDue (e.st.timebase + 1) k ∧ e.tapTick k = e.nextPeriod.takeTap k) ∨
    ((∀ t, ¬ e.st.tickOwed k t) ∧ ¬ tapDue (e.st.timebase + 1) k ∧ e.tapTick k = e) := by
  unfold Ev.tapTick
  rw [← not_exists, ← awaitsTap_iff, ← tapTicks_iff]
  by_cases h : e.st.awaitsTap k = true
  · exact .inl ⟨h, if_pos h⟩
  · rw [if_neg h]
    by_cases h' : tapTicks (e.st.timebase + 1) k = true
    · exact .inr (.inl ⟨h, h', if_pos h'⟩)
    · exact .inr (.inr ⟨h, h', if_neg h'⟩)

/-- An age tick: that of the present period where it is not yet taken, that of the next where the age tap ticks in it, and
otherwise nothing. -/
theorem ageTickNext_cases (e : Ev) :
    (e.st.ageOwed ∧ e.ageTickNext = e.takeAge) ∨
    (¬ e.st.ageOwed ∧ tapDue (e.st.timebase + 1) e.st.ageTap ∧ e.ageTickNext = e.nextPeriod.takeAge) ∨
    (¬ e.st.ageOwed ∧ ¬ tapDue (e.st.timebase + 1) e.st.ageTap ∧ e.ageTickNext = e) := by
  unfold Ev.ageTickNext
  rw [← awaitsAge_iff, ← tapTicks_iff]
  by_cases h : e.st.awaitsAge = true
  · exact .inl ⟨h, if_pos h⟩
  · rw [if_neg h]
    by_cases h' : tapTicks (e.st.timebase + 1) e.st.ageTap = true
    · exact .inr (.inl ⟨h, h', if_pos h'⟩)
    · exact .inr (.inr ⟨h, h', if_neg h'⟩)

/-- The tick that a timer awaits, taken as an event, or none. -/
theorem settleTimer_cases (e : Ev) (t : TimerId) :
    (∃ k, e.st.tickOwed k t ∧ e.settleTimer t = { st := (e.takeTap k).close, jobs := [] }) ∨
    ((∀ k, ¬ e.st.tickOwed k t) ∧ e.settleTimer t = e) := by
  unfold Ev.settleTimer State.tickOwed
  cases hc : (e.st.timer t).clock with
  | tap k =>
    dsimp only
    by_cases h : e.st.awaits k t = true
    · have ho := (awaits_iff _ _ _).mp h
      exact .inl ⟨k, ⟨ho.1, rfl, ho.2.2⟩, if_pos h⟩
    · refine .inr ⟨fun j hj => h ?_, if_neg h⟩
      obtain ⟨h1, h2, h3⟩ := hj
      cases h2
      exact (awaits_iff _ _ _).mpr ⟨h1, hc, h3⟩
  | cycle0 => exact .inr ⟨by simp, rfl⟩
  | cycle1 => exact .inr ⟨by simp, rfl⟩
  | cascade => exact .inr ⟨by simp, rfl⟩

/-- The age tick that its users await, taken as an event, or none. -/
theorem settleAge_cases (e : Ev) :
    (e.st.ageOwed ∧ e.settleAge = { st := e.takeAge.close, jobs := [] }) ∨ (¬ e.st.ageOwed ∧ e.settleAge = e) := by
  unfold Ev.settleAge
  rw [← awaitsAge_iff]
  by_cases h : e.st.awaitsAge = true
  · exact .inl ⟨h, if_pos h⟩
  · exact .inr ⟨h, if_neg h⟩

/-- Where every tick of the present period is taken, the next period begins at once. -/
theorem nextPeriod_quiet {e : Ev} (h : e.st.quiet) : e.nextPeriod = e.map State.nextPeriod := by
  have ht : ∀ t, e.settleTimer t = e := fun t => by
    rcases settleTimer_cases e t with ⟨k, hk, -⟩ | ⟨-, he⟩
    · exact absurd hk (h.1 k t)
    · exact he
  have hl : ∀ l : List TimerId, l.foldl Ev.settleTimer e = e := fun l => by
    induction l with
    | nil => rfl
    | cons t l ih => rw [List.foldl_cons, ht, ih]
  have ha : e.settleAge = e := by
    rcases settleAge_cases e with ⟨hk, -⟩ | ⟨-, he⟩
    · exact absurd hk h.2
    · exact he
  unfold Ev.nextPeriod
  rw [hl, ha]
  exact congrArg (fun f => e.map f) (funext beginPeriod_eq)

/-- What the end of an event, a tick of a tap, an age tick and the beginning of a period keep, the next period keeps: it
takes the untaken ticks as events, and then begins. -/
theorem nextPeriod_induction {P : State → Prop} (hclose : ∀ e : Ev, P e.st → P e.close)
    (htap : ∀ (e : Ev) (k : Tap), P e.st → P (e.takeTap k).st) (hage : ∀ e : Ev, P e.st → P e.takeAge.st)
    (hbegin : ∀ s : State, P s → P s.nextPeriod) {e : Ev} (h : P e.st) : P e.nextPeriod.st := by
  have hl : ∀ (l : List TimerId) (e : Ev), P e.st → P (l.foldl Ev.settleTimer e).st := fun l => by
    induction l with
    | nil => exact fun _ h => h
    | cons t l ih =>
      intro e h
      rw [List.foldl_cons]
      apply ih
      rcases settleTimer_cases e t with ⟨k, -, he⟩ | ⟨-, he⟩
      · rw [he]; dsimp only; exact hclose (e.takeTap k) (htap e k h)
      · rwa [he]
  have ha : ∀ e : Ev, P e.st → P e.settleAge.st := fun e h => by
    rcases settleAge_cases e with ⟨-, he⟩ | ⟨-, he⟩
    · rw [he]; dsimp only; exact hclose e.takeAge (hage e h)
    · rwa [he]
  have hb : ∀ e : Ev, P e.st → P (e.map State.beginPeriod).st := fun e h => by
    unfold Ev.map
    rw [beginPeriod_eq]
    exact hbegin _ h
  exact hb _ (ha _ (hl _ _ h))

/-- What a tick at one timer and the marks of the ticks made keep, a tick of a tap keeps. -/
theorem takeTap_induction {P : State → Prop} (htick : ∀ (e : Ev) (t : TimerId), P e.st → P (e.tick t).st)
    (hmark : ∀ (s : State) (v : Vector Bool 4), P s → P (s.setTimerTicks v)) {e : Ev} (k : Tap) (h : P e.st) :
    P (e.takeTap k).st := by
  have hl : ∀ (l : List TimerId) (e : Ev), P e.st → P (l.foldl (fun e t => e.tapAt k t) e).st := fun l => by
    induction l with
    | nil => exact fun _ h => h
    | cons t l ih =>
      intro e h
      rw [List.foldl_cons]
      apply ih
      unfold Ev.tapAt
      split
      · exact htick _ _ (hmark _ _ h)
      · exact h
  exact hl _ _ h

/-! ### Register writes and command results (12) -/

/-- A field write: the field takes the value, or ARG is recorded (R186). -/
theorem writeField_cases {α : Type} (e : Ev) (v : Option α) (f : α → State → State) :
    (∃ x, v = some x ∧ e.writeField v f = e.map (f x)) ∨ (v = none ∧ e.writeField v f = e.record .arg) := by
  cases v with
  | some x => exact .inl ⟨x, rfl, rfl⟩
  | none => exact .inr ⟨rfl, rfl⟩

/-- A command result changes the result and the last error alone (R187). -/
theorem result_rest (e : Ev) (r : CmdResult) :
    e.result r =
      e.map (fun s => s.setMgmt
        { s.mgmt with
          cmdResult := r
          lastError := match r with
            | .accepted => s.mgmt.lastError
            | .refusedBusy => .busy
            | .refusedArg => .arg }) := by
  cases r <;> rfl

end Sys2Proof.Machine
end

