-- ==== Sys2Proof/Tests/Slice0.lean ====
section
/-! SUPPORT. Tests: the operand checks refuse ill-formed commands, single steps of the spec's examples, and for each
statement with hypotheses a state that meets them. -/

namespace Sys2Proof.Tests

open Sys2Proof.Machine

-- One declaration after another: each evaluation by the kernel waits for the declarations before it.
set_option Elab.async false

/-! ### Small states -/

/-- A READ of one beat by source 5 at 1000h. -/
def readReq : Request := { source := 5, kind := .read, address := 0x1000, beats := 1, data := [] }

/-- A WRITE of two beats by source 6 at 2000h. -/
def writeReq : Request := { source := 6, kind := .write, address := 0x2000, beats := 2, data := [1, 2] }

/-- A malformed READ: 17 beats. -/
def badReq : Request := { source := 5, kind := .read, address := 0x1000, beats := 17, data := [] }

/-- An OK response of one beat to source 5. -/
def okResp : Response := { source := 5, status := 0, dataBeats := 1, data := [7] }

/-- The store record of a kept readReq drawn as d in stream 0. -/
def record (d : Nat) : StoreRec :=
  { source := 5, kind := .read, address := 0x1000, beats := 1, stream := 0, seq := BitVec.ofNat 32 d, draw := d,
    writeRef := none, age := none, urgent := false }

/-- The order entry of readReq drawn as d. -/
def entry (d : Nat) (es : EntryState) : OrderEntry :=
  { source := 5, stream := some 0, kind := .read, beats := 1, state := es, draw := d }

/-- One READ is kept, in BYPASS. -/
def kept : State :=
  { State.reset with
    up := { State.reset.up with seq := 1, draws := 1 }, store := [record 0], order := [entry 0 .queued] }

/-- One READ has an order entry in a state and no record. -/
def entered (es : EntryState) : State :=
  { State.reset with
    up := { State.reset.up with seq := 1, draws := 1 }, order := [entry 0 es] }

/-- The counts of issued entries that the state shows are in the records. -/
def issued : State :=
  { entered .issued with streams := updAt State.reset.streams 0 (fun st => { st with issueCount := 1 }) }

/-- Stream 0 with a live set rewritten, ON, in REGULATE. -/
def regulated (f : Params → Params) : State :=
  { State.reset with
    streams := updAt State.reset.streams 0 (fun st => { st with mode := .on, live := f st.live, pend := f st.pend })
    dev := { State.reset.dev with mode := .regulate } }

/-- The drain, with its timer running and a request out at memory. -/
def draining : State := { issued with dev := { issued.dev with mode := .draining, drainRunning := true } }

/-- s with UP offering r. -/
def offering (r : Request) (s : State) : State := { s with up := { s.up with offer := some r, lacking := s.lacks r } }

/-- s with an answer for source 9 in the answer stage. -/
def occupied (s : State) : State :=
  { s with answer := { s.answer with stage := some { source := 9, status := .ok, data := [] } } }

/-- k ABANDONED entries and nothing else. -/
def abandoned (k : Nat) : State :=
  { State.reset with
    up := { State.reset.up with seq := BitVec.ofNat 32 k, draws := k }
    order := (List.range k).map (fun d => entry d .abandoned) }

/-- Timer 1 written out. -/
def timed (x : Timer) : State := { State.reset with timers := State.reset.timers.set 1 x }

/-- s one REFCLK period before a tick of tap k. -/
def nearing (k : Tap) (s : State) : State := { s with timebase := BitVec.ofNat 15 (2 ^ k.val - 1) }

/-- s in a WRITE frame whose next word goes to address a. -/
def writingAt (a : WordAddr) (s : State) : State :=
  { s with mgmt := { s.mgmt with selected := true, frame := .writing a } }

/-- A Bool that says what State.Noted asks. -/
def notedCheck (s : State) : Bool :=
  (match s.downResp with
      | none => true
      | some r =>
        match s.oldestDue r.source with
        | none => false
        | some m => m.state == .issued) &&
    (List.finRange 16).all (fun n => !s.headShort n || (s.stream n).noted) && s.up.lacking == s.stall &&
    !s.nt.presentable

/-- The check finds Noted. -/
theorem noted_of_check (s : State) (h : notedCheck s = true) : s.Noted := by
  simp only [notedCheck, Bool.and_eq_true, Bool.not_eq_true', List.all_eq_true, beq_iff_eq, Bool.or_eq_true] at h
  obtain ⟨⟨⟨h2, h3⟩, h4⟩, h5⟩ := h
  refine ⟨?_, ?_, h4, ?_⟩
  · intro r hr
    simp only [hr] at h2
    split at h2
    · cases h2
    · exact ⟨_, ‹_›, by simpa using h2⟩
  · intro n hn
    rcases h3 n (List.mem_finRange n) with h | h
    · simp [hn] at h
    · exact h
  · intro hp hh
    simpa [Notices.presentable, hp, hh] using h5

/-- With no fill due no answer waits for the stage. -/
theorem answersWait_of_check (s : State) (h : s.fillReady = false) : s.answersWait := by
  intro hs
  simpa [State.fillReady, hs] using h

/-- A Bool that says what State.Ready asks. -/
def readyCheck (s : State) : Bool :=
  !s.inReset && notedCheck s && s.takeable.isNone && !s.drained && !s.fillReady

/-- The check finds Ready. -/
theorem ready_of_check (s : State) (h : readyCheck s = true) : s.Ready := by
  simp only [readyCheck, Bool.and_eq_true, Bool.not_eq_true'] at h
  obtain ⟨⟨⟨⟨h1, h2⟩, h3⟩, h4⟩, h5⟩ := h
  refine ⟨h1, noted_of_check s h2, ?_, ?_, answersWait_of_check s h5⟩
  · intro r hr
    by_contra hc
    rw [not_or, not_not] at hc
    simp [State.takeable, hr, hc] at h3
  · rintro hm ⟨h5, h6, h7⟩
    have : s.drained = true := by simpa [State.drained, hm, h6, h7] using h5
    rw [this] at h4
    cases h4

theorem ready_reset : State.reset.Ready := ready_of_check _ (by decide +kernel)
theorem ready_kept : kept.Ready := ready_of_check _ (by decide +kernel)
theorem ready_issued : issued.Ready := ready_of_check _ (by decide +kernel)
theorem ready_draining : draining.Ready := ready_of_check _ (by decide +kernel)
theorem ready_held : (occupied { issued with downResp := some okResp }).Ready := ready_of_check _ (by decide +kernel)

/-- A ready state in a WRITE frame takes words at the frame's address. -/
theorem words_at (a : WordAddr) {s : State} (h : readyCheck s = true) : (writingAt a s).TakesWord a :=
  ⟨ready_of_check _ h, rfl⟩

theorem check_reset : readyCheck State.reset = true := by decide +kernel
theorem check_draining : readyCheck draining = true := by decide +kernel

/-! ### WellFormed refuses -/

/-- A READ offered with data, and a WRITE with a beat too few (R173). -/
theorem test_wellFormed_requestOffer :
    (Instr.requestOffer { readReq with data := [1] }).wellFormed = false ∧
    (Instr.requestOffer { writeReq with data := [1] }).wellFormed = false ∧
    (Instr.requestOffer writeReq).wellFormed = true := by decide

/-- A response that carries more beats than it announces (R176). -/
theorem test_wellFormed_responseOffer :
    (Instr.responseOffer { okResp with data := [1, 2] }).wellFormed = false ∧
    (Instr.responseOffer okResp).wellFormed = true := by decide

/-- The codes 01h and 0Ah name commands (12.4). -/
theorem test_wellFormed_unknownCommand :
    (Instr.unknownCommand 0x01000000).wellFormed = false ∧ (Instr.unknownCommand 0x0A000000).wellFormed = false ∧
    (Instr.unknownCommand 0x0B000000).wellFormed = true ∧ (Instr.unknownCommand 0).wellFormed = true := by decide

/-- The operations 1 and 4 are named (12.4). -/
theorem test_wellFormed_timerCmdUnknownOperation :
    (Instr.timerCmdUnknownOperation 1 1).wellFormed = false ∧ (Instr.timerCmdUnknownOperation 1 4).wellFormed = false ∧
    (Instr.timerCmdUnknownOperation 1 5).wellFormed = true ∧ (Instr.timerCmdUnknownOperation 1 0).wellFormed = true := by
  decide

/-! ### Words written out from 12.3 and 12.4 -/

/-- Command words with the code in bits 31 to 24 and the operands in the low bits (12.4). -/
theorem test_command_words :
    decodeCommand 0x0100001F = .install 31 ∧ decodeCommand 0x02000003 = .remove 3 ∧
    decodeCommand 0x03008001 = .applyNow 0x8001 ∧ decodeCommand 0x0400FFFF = .discardPending 0xFFFF ∧
    decodeCommand 0x05000002 = .streamOn 2 ∧ decodeCommand 0x06000004 = .streamOff 4 ∧
    decodeCommand 0x07000202 = .timerCmd 2 2 ∧ decodeCommand 0x08000001 = .setMode 1 ∧
    decodeCommand 0x09000000 = .warmReset ∧ decodeCommand 0x0A000105 = .snapshot 5 true ∧
    decodeCommand 0x0B000000 = .unknown 0x0B000000 := by decide

/-- 07000202h is STOP of timer 1. -/
theorem test_timer_word_row :
    (decodeCommand 0x07000202).row = .stop 2 ∧ decodeTableWord 32 0x07000202 = some (.stop 2) := by decide

/-- Word addresses written out from 12.3: pending priority of stream 1, clock source of timer 3, cause register of
source 23, drain limit. -/
theorem test_register_addresses :
    addrKind 0x14B = .writable (.pending 1 .priority) ∧ addrKind 0x51D = .writable (.clockSource 3) ∧
    addrKind 0x6B8 = .writable (.cause 23) ∧ addrKind 0x007 = .writable .drainLimit ∧ addrKind 0x001 = .command ∧
    addrKind 0x005 = .readOnly ∧ addrKind 0x010 = .unmapped := by decide

/-! ### Single steps of the spec's worked examples -/

/-- The state after an outcome. -/
def after (o : Host.Outcome State Fault Refusal) : State :=
  match o with
  | .next t => t
  | .fault _ => State.reset
  | .refused _ => State.reset

/-- The state after these commands, one after the other. -/
def through (l : List Instr) (s : State) : State := l.foldl (fun u c => after (exec c u)) s

/-- A match list entry written out. -/
def matchRow (valid : Bool) (source mask : Source) (kind : KindFilter) (base limit : Page) (n : StreamId) : MatchEntry :=
  { valid := valid
    rule := { sourceValue := source, sourceMask := mask, kind := kind, pageBase := base, pageLimit := limit, stream := n } }

/-- The match list of the example in 1.7. -/
def listed : State :=
  { State.reset with
    matchList :=
      (((State.reset.matchList.set 0 (matchRow true 8 0x38 .write 0x100 0x1FF 3)).set 1
        (matchRow true 8 0x38 .any 0x100 0x3FF 4)).set 2 (matchRow false 20 0x3F .any 0 0xFFFFFFF 9)).set 5
        (matchRow true 20 0x3F .read 0 0xFFFFFFF 7) }

/-- A request of one beat. -/
def ask (source : Source) (kind : Kind) (address : Address) : Request :=
  { source := source, kind := kind, address := address, beats := 1, data := [] }

/-- 1.7: requests a to f are classified into streams 3, 4, 4, 0, 0, 7. -/
theorem test_classify_1_7 :
    listed.classify (ask 9 .write 0x150000) = 3 ∧ listed.classify (ask 9 .read 0x150040) = 4 ∧
    listed.classify (ask 12 .write 0x300000) = 4 ∧ listed.classify (ask 16 .read 0x150000) = 0 ∧
    listed.classify (ask 20 .write 0x150000) = 0 ∧ listed.classify (ask 20 .read 0x150000) = 7 := by decide +kernel

/-- 1.7: after REMOVE 0, request g is classified into stream 4. -/
theorem test_remove_1_7 :
    (after (exec (.remove 0) (writingAt commandAddr listed))).classify (ask 9 .write 0x151000) = 4 := by decide +kernel

/-- 2.12, step 9: credit 100 in ACCUMULATE, pending reload 60, cap 30, timer 2: the frame start of timer 0 leaves
credit 60 and binds the stream to timer 2. -/
theorem test_apply_2_12 :
    let s := { State.reset with
      streams := updAt State.reset.streams 5 (fun st =>
        { st with
          credit := 100, pendingValid := true
          live := { st.live with creditMode := .accumulate, reload := 40, cap := 100 }
          pend := { st.live with creditMode := .accumulate, reload := 60, cap := 30, timer := 2 } })
      deliveries := [(0, 5)] }
    let t := after (exec (.frameStartDelivery 0 5) s)
    (t.stream 5).credit = 60 ∧ (t.stream 5).live.timer = 2 ∧ (t.stream 5).pendingValid = false := by decide +kernel

/-- 5.9, grant 3: PASS, 8 beats against credit 4: credit 0, 4 excess beats. -/
theorem test_charge_5_9 :
    let st := ({ Stream.cold with credit := 4 } : Stream).charge true 8
    st.credit = 0 ∧ st.counters.excessBeats = 4 ∧ st.counters.issuedBeats = 8 ∧ st.issueCount = 1 := by decide

/-- A record of 7.10. -/
def aged (source : Source) (n : StreamId) (draw age : Nat) : StoreRec :=
  { record draw with source := source, stream := n, age := some age }

/-- The store of 7.10, in take order. -/
def store710 : List StoreRec :=
  [aged 8 1 200 40, aged 6 3 201 30, aged 8 2 202 12, aged 4 1 205 1, aged 4 2 207 1, aged 8 3 209 50, aged 4 1 210 60]

/-- 7.10: at the age tick b (205) is dropped and the closure of e (207) is {e, d, a}. -/
theorem test_expiry_7_10 :
    let s := { State.reset with
      store := store710
      streams := updAt State.reset.streams 1 (fun st => { st with live := { st.live with ageAction := .drop } }) }
    let t := after (exec .ageTick (nearing 10 s))
    t.store.map (fun r => (r.draw, r.age, r.urgent)) =
      [(200, some 39, true), (201, some 29, false), (202, some 11, true), (207, some 0, true), (209, some 49, false),
        (210, some 59, false)] := by decide +kernel

/-- 8.15, step 8: the fifth tap tick ends timer 2's frame of 5, records WRAP and SYNC_MISSED and makes a cascade tick
for timer 3. -/
theorem test_tick_8_15 :
    let s := { State.reset with
      timers :=
        (State.reset.timers.set 2
          { Timer.cold with state := .running, count := 4, frameLength := 5, clock := .tap 8, sync := .sync0 }).set 3
          { Timer.cold with state := .running, count := 1, frameLength := 3, clock := .cascade } }
    let t := after (exec (.tapTick 8) (nearing 8 s))
    (t.timer 2).count = 0 ∧ (t.timer 3).count = 1 ∧ cell t.cascades 3 = 1 ∧ (cell t.nt.sources 18).causes = 3#5 := by
  decide +kernel

/-- R106, R119: with the age tap at 9 the age tick of a period at which tap 9 or tap 10 ticks ages; a tick of a tap does
not, and the age tick of its period is taken by AGE_TICK or before the next period; no other period has one, nor the old
tap's after a write of 10. -/
theorem test_age_tick :
    let s := writingAt 0x006 { State.reset with store := [aged 8 1 200 40], ageTap := 9 }
    let ages (l : List Instr) (u : State) : List (Option Nat) := (through l u).store.map (fun r => r.age)
    ages [.ageTick] (nearing 9 s) = [some 39] ∧ ages [.ageTick] (nearing 10 s) = [some 39] ∧
    ages [.tapTick 9] (nearing 9 s) = [some 40] ∧ ages [.tapTick 0, .ageTick] (nearing 9 s) = [some 39] ∧
    ages [.tapTick 9, .ageTick, .ageTick] (nearing 9 s) = [some 39] ∧
    ages [.tapTick 9, .tapTick 0, .tapTick 0] (nearing 9 s) = [some 39] ∧
    ages [.tapTick 8, .ageTick] (nearing 8 s) = [some 40] ∧ ages [.ageTick] s = [some 40] ∧
    ages [.ageTapWrite 10, .ageTick] (nearing 9 s) = [some 40] ∧
    ages [.tapTick 0, .ageTapWrite 10, .ageTick] (nearing 9 s) = [some 40] := by decide +kernel

/-- R117, R127: DROP waits in the pending set of stream 1, whose timer begins a frame in the period of the age tick at
which its record expires. The apply before the age tick: dropped; after it: forced, the record stays. -/
theorem test_apply_before_age_tick :
    let st := State.reset.stream 1
    let s := nearing 10
      { State.reset with
        store := [aged 8 1 200 1]
        streams := State.reset.streams.set 1
          { st with pend := { st.pend with ageAction := .drop }, pendingValid := true }
        timers := State.reset.timers.set 0 { Timer.cold with state := .running, count := 65534 } }
    (through [.tapTick 0, .frameStartDelivery 0 1, .ageTick] s).store = [] ∧
    (through [.tapTick 0, .ageTick, .frameStartDelivery 0 1] s).store = [{ aged 8 1 200 0 with urgent := true }] ∧
    (through [.ageTick, .tapTick 0, .frameStartDelivery 0 1] s).store = [{ aged 8 1 200 0 with urgent := true }] := by
  decide +kernel

/-- R119: from the release tap 0 ticks at every period and tap 1 at every second one; the ticks of tap 1 are the second
and the fourth of the first four periods, and one that is not taken is taken before the next period. -/
theorem test_divider :
    let s := timed { Timer.cold with state := .running, clock := .tap 1 }
    let run (l : List Instr) : Nat := ((through l s).timer 1).count
    run [.tapTick 0] = 0 ∧ run [.tapTick 0, .tapTick 0] = 0 ∧ run [.tapTick 0, .tapTick 0, .tapTick 1] = 1 ∧
    run [.tapTick 0, .tapTick 0, .tapTick 1, .tapTick 1] = 1 ∧ run [.tapTick 0, .tapTick 0, .tapTick 0] = 1 ∧
    run [.tapTick 0, .tapTick 1, .tapTick 0, .tapTick 0, .tapTick 0, .tapTick 1] = 2 ∧ run [.tapTick 1] = 0 := by decide +kernel

/-- 9.7, steps 6 to 8: the third age tick at limit 3 times source 5's presentation out. -/
theorem test_timeout_9_7 :
    let nt := { Notices.cold with
      queue := [{ source := 5, causes := 1#5 }], port := .presenting, timer := 2, limit := 3 }
    let nt' := nt.ageTick
    nt'.port = .idle ∧ nt'.queue = [] ∧ nt'.hold = true ∧ (cell nt'.sources 5).causes = 1#5 ∧
    (cell nt'.sources 21).causes = 2#5 := by decide +kernel

/-- R151, R156: the tick after a timeout presents the waiting entry, and an edge after it acknowledges; the fall of
EVACK presents the next entry. -/
theorem test_presentation_at_its_event :
    let nt := { Notices.cold with
      queue := [{ source := 5, causes := 1#5 }, { source := 6, causes := 1#5 }], hold := true }
    let s := { State.reset with nt := nt }
    let s1 := after (exec .ageTick (nearing 10 s))
    let s2 := after (exec .evackRise s1)
    let s3 := after (exec .evackFall s2)
    s1.nt.evreq = true ∧ s1.nt.evcode = 5 ∧ s2.nt.port = .recovering ∧ s2.nt.queue = [{ source := 6, causes := 1#5 }] ∧
    s3.nt.evreq = true ∧ s3.nt.evcode = 6 := by decide +kernel

/-- 12.8, the first two frames from timer 1 RUNNING in REGULATE: both words of the first are BUSY; 07000202h stops the
timer and the second word is ADDR; the status bytes are 40h, 42h and 41h. -/
theorem test_frames_12_8 :
    let run (s : State) (l : List Instr) : State := l.foldl (fun s c => after (exec c s)) s
    let s := { State.reset with
      dev := { State.reset.dev with mode := .regulate }
      timers := State.reset.timers.set 1 { Timer.cold with state := .running } }
    let s1 := run s [.spiFrameStart, .unknownOperation ⟨0xCA, 0x05, 0x0D⟩, .registerWrite 0x50D 16, .registerWrite 0x50E 1,
      .spiFrameEnd .between]
    let s2 := run s1 [.spiFrameStart, .unknownOperation ⟨0xCA, 0x00, 0x01⟩, .registerWrite 1 0x07000202, .registerWrite 2 5,
      .spiFrameEnd .between]
    let s3 := run s2 [.spiFrameStart, .unknownOperation ⟨0xC5, 0x00, 0x02⟩, .unmappedRead 2]
    s1.mgmt.statusByte = 0x40 ∧ s1.mgmt.lastError = .busy ∧ s1.timer 1 = s.timer 1 ∧ s2.mgmt.statusByte = 0x42 ∧
    (s2.timer 1).state = .stopped ∧ s2.mgmt.cmdResult = .accepted ∧ s2.mgmt.lastError = .addr ∧
    s3.mgmt.statusByte = 0x41 ∧ s3.mgmt.frame = .reading 3 ∧ s3.sdo = some [0, 0, 0, 0] := by decide +kernel

/-- R180, R184: after a cold reset in a frame the words of the lost frame do nothing, and the rise of CSn records no
error. -/
theorem test_lost_frame :
    let run (s : State) (l : List Instr) : State := l.foldl (fun s c => after (exec c s)) s
    let s := run (writingAt 0x006 State.reset) [.coldReset, .coldResetRelease, .registerWrite 6 5]
    s.ageTap = 10 ∧ s.mgmt.selected = true ∧ s.mgmt.frame = .none ∧
    (after (exec (.spiFrameEnd .partway) s)).mgmt.lastError = .none := by decide +kernel

/-- 13.5, step 6: the late response meets the ABANDONED entry i and is discarded; n stays ISSUED. -/
theorem test_late_response_13_5 :
    let s := { State.reset with order := [entry 0 .abandoned, entry 2 .issued] }
    let t := after (exec (.responseOffer okResp) s)
    t.order = [entry 2 .issued] ∧ t.downResp = none ∧ t.answer.stage = none := by decide +kernel

/-- The entries of 6.9 before its step 1: x1 of source 9; i1, l2, i3 and q4 of source 7. -/
def order69 : List OrderEntry :=
  let row (source : Source) (draw : Nat) (kind : Kind) (beats : Nat) (n : StreamId) (es : EntryState) : OrderEntry :=
    { source := source, stream := some n, kind := kind, beats := beats, state := es, draw := draw }
  [row 9 305 .write 2 0 (.made .expired false), row 7 310 .read 4 2 .issued, row 7 311 .read 2 4 (.made .refused false),
    row 7 312 .write 8 2 .issued, row 7 313 .read 1 4 .queued]

/-- 6.9, steps 2 and 4: UP's take of source 3's answer is followed by the memory answer for i1, before x1's local one;
with the next response held, UP's take is followed by l2's REFUSED, the pointer at 7, and the response is held still. -/
theorem test_fill_6_9 :
    let up (order : List OrderEntry) (r : Response) : State :=
      after (exec .answerTake
        { State.reset with
          order := order, downResp := some r
          answer := { stage := some { source := 3, status := .ok, data := [] }, ptr := 5 } })
    let s2 := up order69 { source := 7, status := 0, dataBeats := 4, data := [1, 2, 3, 4] }
    let s4 := up (order69.eraseIdx 1) { source := 7, status := 1, dataBeats := 0, data := [] }
    s2.answer = { stage := some { source := 7, status := .ok, data := [1, 2, 3, 4] }, ptr := 5 } ∧
    s2.order = order69.eraseIdx 1 ∧ s2.downResp = none ∧
    s4.answer = { stage := some { source := 7, status := .refused, data := [] }, ptr := 7 } ∧
    s4.order = (order69.eraseIdx 1).eraseIdx 1 ∧ s4.downResp.isSome = true := by decide +kernel

/-- R100, first row, the LOCAL front taken first: a malformed request is answered REFUSED at its own take, the stage
being empty, and the answerable response that comes next is held. -/
theorem test_local_front_first :
    let s1 := after (exec (.requestOffer { badReq with source := 8 }) issued)
    let s2 := after (exec (.responseOffer okResp) s1)
    s1.answer = { stage := some { source := 8, status := .refused, data := [] }, ptr := 8 } ∧ s1.order = issued.order ∧
    s2.answer = s1.answer ∧ s2.downResp = some okResp ∧ s2.order = issued.order := by decide +kernel

/-- 10.12, step 1: at the start q of source 2 and r of source 5 become LOCAL ABORTED, source 2's front is ISSUED, and
the fill answers r. -/
theorem test_warm_start_10_12 :
    let row (source : Source) (draw : Nat) (es : EntryState) : OrderEntry :=
      { entry draw es with source := source }
    let t := after (exec .wrstnFall
      { State.reset with order := [row 2 0 .issued, row 2 1 .issued, row 2 2 .queued, row 5 3 .queued] })
    t.dev.mode = .draining ∧ t.answer = { stage := some { source := 5, status := .aborted, data := [] }, ptr := 5 } ∧
    t.order = [row 2 0 .issued, row 2 1 .issued, row 2 2 (.made .aborted false)] := by decide +kernel

/-- R34, R36: an offer stalled on ORDER by 256 ABANDONED entries; a warm reset with nothing to wait for ends the stall at
its start, and ORDER, found lacking at the completion, is a new occurrence after the cause sets were emptied. -/
theorem test_stall_across_a_reset :
    let s := offering readReq (abandoned 256)
    let b := after (exec .wrstnFall { s with nt := s.nt.occur { source := 20, cause := .dataLack } })
    let t := after (exec .warmResetCompletion b)
    s.up.lacking.order = true ∧ b.dev.mode = .draining ∧ b.up.lacking = Lacking.none ∧
    t.dev.mode = .bypass ∧ t.up.lacking.order = true ∧ t.up.offer = some readReq ∧
    (cell t.nt.sources 20).causes = Cause.orderLack.bit := by decide +kernel

/-- R161, on a block with nothing to drain: of the command and the edge together the second finds DRAINING, in either
order, and the completion follows it. -/
theorem test_requests_together :
    let s := { writingAt commandAddr State.reset with dev := { State.reset.dev with mode := .regulate } }
    let b := after (exec .wrstnFall s)
    let t := after (exec .warmReset b)
    let b' := after (exec .warmReset s)
    let t' := after (exec .wrstnFall b')
    b.dev.mode = .draining ∧ t.mgmt.cmdResult = .refusedBusy ∧ t.mgmt.lastError = .busy ∧ t.dev.mode = .bypass ∧
    b'.dev.mode = .draining ∧ t'.mgmt.cmdResult = .accepted ∧ t'.mgmt.lastError = .none ∧ t'.dev.mode = .bypass := by
  decide +kernel

/-- R167: any other event comes after the completion, so SET_MODE finds BYPASS; and R168: so does a request that comes
after it. -/
theorem test_completion_comes_first :
    let s := writingAt commandAddr State.reset
    let t := after (exec (.setMode 1) (after (exec .wrstnFall s)))
    let t' := after (exec .warmReset (after (exec .warmResetCompletion (after (exec .wrstnFall s)))))
    t.dev.mode = .regulate ∧ t.mgmt.cmdResult = .accepted ∧ t'.mgmt.cmdResult = .accepted ∧
    t'.dev.mode = .draining := by decide +kernel

/-- R167, R168: in a drain at the last tick before its timeout UP takes the last answer: the warm reset completes at that
event, the waiting READ is taken at it, and the age tick after it times nothing out. -/
theorem test_drain_ends_at_its_event :
    let s := nearing 10
      { State.reset with
        up := { State.reset.up with offer := some readReq }
        answer := { State.reset.answer with stage := some { source := 5, status := .ok, data := [] } }
        dev := { mode := .draining, drainRunning := true, drainTimer := 4095, drainLimit := 4096 } }
    let t := after (exec .answerTake s)
    let t' := after (exec .ageTick t)
    t.dev.mode = .bypass ∧ t.dev.drainRunning = false ∧ t.up.offer = none ∧ t.store.length = 1 ∧
    (cell t'.nt.sources 23).causes = 0 ∧ t'.dev.drainTimer = 4095 := by decide +kernel

/-- R32, R51: DOWN's take of a WRITE of 16 beats frees what a waiting WRITE of 2 lacks, and the waiting one is taken at
that event. -/
theorem test_offer_taken_at_its_event :
    let s := { State.reset with
      up := { State.reset.up with offer := some writeReq, lacking := { Lacking.none with data := true } }
      wdb := [{ key := 7, data := List.replicate 16 0 }, { key := 8, data := List.replicate 1007 0 }]
      issue := { State.reset.issue with
        stage := some { source := 9, kind := .write, address := 0, beats := 16, stream := 0, writeRef := some 7 } } }
    let t := after (exec .issueTake s)
    s.lacks writeReq = { Lacking.none with data := true } ∧ t.up.offer = none ∧ t.store.length = 1 ∧
    t.bufferUsed = 1009 := by decide +kernel

/-- R38: 16 beats that end on a page's last byte are well formed, one beat later is not. -/
theorem test_page_crossing :
    ({ readReq with address := 0x1F00, beats := 16 } : Request).wellFormed = true ∧
    ({ readReq with address := 0x1F10, beats := 16 } : Request).wellFormed = false := by decide

/-! ### Witnesses: states that meet the hypotheses of the statements -/

theorem matches_reset : State.reset.StoreMatches := ⟨by decide +kernel, by decide +kernel, by decide +kernel⟩
/-- With no record and no entry the two collections correspond. -/
theorem matches_cleared {s : State} (h1 : s.store = []) (h2 : s.order = []) : s.StoreMatches :=
  ⟨by simp [State.queuedEntries, h1, h2], by simp [h2], by simp [h2]⟩

theorem matches_abandoned (k : Nat) : (abandoned k).StoreMatches := by
  have hq : (abandoned k).queuedEntries = [] := by
    simp [State.queuedEntries, abandoned, entry]
  refine ⟨by rw [hq]; rfl, ?_, ?_⟩
  · simpa [abandoned, List.pairwise_map, entry] using List.pairwise_lt_range
  · simp [abandoned, entry]

theorem matches_kept : kept.StoreMatches := ⟨by decide +kernel, by decide +kernel, by decide +kernel⟩
theorem words_reset (a : WordAddr) : (writingAt a State.reset).TakesWord a := words_at a check_reset
theorem words_draining (a : WordAddr) : (writingAt a draining).TakesWord a := words_at a check_draining

theorem witness_StepTakesTheFrontCommand :
    ∃ (s : State) (c : Instr) (rest : List Instr), s.pending = c :: rest :=
  ⟨{ State.reset with pending := [.grant, .evackRise] }, .grant, [.evackRise], rfl⟩

theorem witness_EmptyQueueRunsADueEvent :
    (State.reset.pending = [] ∧ State.reset.dueEvents = []) ∧ (kept.pending = [] ∧ kept.dueEvents ≠ []) := by
  decide +kernel

/-- A rule for every page, one for a single page, and two requests of one page. -/
theorem witness_KindAndPageTests :
    (∃ m : MatchRule, m.pageBase = 0 ∧ m.pageLimit = 268435455) ∧ (∃ m : MatchRule, m.pageBase = m.pageLimit) ∧
    (∃ r r' : Request, r ≠ r' ∧ r.address.toNat / 4096 = r'.address.toNat / 4096) :=
  ⟨⟨{ MatchRule.cold with pageLimit := 268435455 }, rfl, rfl⟩, ⟨MatchRule.cold, rfl⟩,
    ⟨readReq, { readReq with address := 0x1FF0 }, by decide, by decide⟩⟩

/-- The last entry of the list is the first that matches; and no entry matches. -/
theorem witness_FirstMatchNamesTheStream :
    (let s := { State.reset with matchList := State.reset.matchList.set 31 (matchRow true 5 0x3F .read 1 1 9) };
      ((cell s.matchList 31).hits readReq = true ∧ ∀ j : Fin 32, j < 31 → (cell s.matchList j).hits readReq = false) ∧
      s.classify readReq = 9) ∧
    (∀ i : Fin 32, (cell State.reset.matchList i).hits readReq = false) := by decide +kernel

/-- A window whose start is its end; a count just below the frame length in an open one. -/
theorem witness_WindowIsOpen :
    (let s := regulated (fun p => { p with windowStart := 65535 });
      min (s.stream 0).live.windowEnd (s.timer (s.stream 0).live.timer).frameLength ≤ (s.stream 0).live.windowStart) ∧
    (let s := { regulated id with timers := State.reset.timers.set 0 { Timer.cold with count := 65534 } };
      s.windowOpen 0 = true) := by decide +kernel

theorem witness_EligibilityTest : kept.StoreMatches ∧ record 0 ∈ kept.store := ⟨matches_kept, by decide +kernel⟩

theorem witness_SomeHeadMeetsTheOrderCondition :
    kept.StoreMatches ∧ kept.store ≠ [] ∧ record 0 ∈ kept.store ∧ kept.eligible (record 0) = true :=
  ⟨matches_kept, by decide +kernel, by decide +kernel, by decide +kernel⟩

/-- A plain candidate, an urgent one, and none. -/
theorem witness_ArbiterChoice :
    (kept.StoreMatches ∧ kept.grantChoice = some (record 0)) ∧
    (let s := { kept with store := [{ record 0 with urgent := true }] };
      s.StoreMatches ∧ s.grantChoice = some { record 0 with urgent := true }) ∧
    (State.reset.StoreMatches ∧ State.reset.grantChoice = none) :=
  ⟨⟨matches_kept, by decide +kernel⟩,
    ⟨⟨by decide +kernel, by decide +kernel, by decide +kernel⟩, by decide +kernel⟩, matches_reset, by decide +kernel⟩

theorem witness_LocalRoundRobin :
    (entered (.made .refused false)).localChoice = some (entry 0 (.made .refused false)) ∧
    State.reset.localChoice = none := by decide +kernel

/-- The notice unit with two sources routed to the handshake and a queue. -/
def handshaking (x y : NoticeId) (queue : List HsEntry) : Notices :=
  { Notices.cold with
    sources :=
      (Notices.cold.sources.set x { NoticeSource.cold with route := .handshake }).set y
        { NoticeSource.cold with route := .handshake }
    queue := queue }

/-- A queue with an entry for each of these sources. -/
def queueOf (l : List NoticeId) : List HsEntry := l.map (fun x => { source := x, causes := 1 })

/-- Each case of the routing of CREDIT at source 9: INTERRUPT; waiting; appended at length 7; at length 8 with source
21 waiting, not waiting, and routed INTERRUPT. -/
theorem witness_OccurrenceRouting :
    (cell Notices.cold.sources 9).route = .interrupt ∧
    (let nt := handshaking 9 9 (queueOf [9]);
      (cell nt.sources 9).route = .handshake ∧ ∃ e ∈ nt.queue, e.source = 9) ∧
    (let nt := handshaking 9 9 (queueOf [0, 1, 2, 3, 4, 5, 6]);
      (cell nt.sources 9).route = .handshake ∧ (∀ e ∈ nt.queue, e.source ≠ 9) ∧ nt.queue.length = 7) ∧
    (let nt := handshaking 9 21 (queueOf [0, 1, 2, 3, 4, 5, 6, 21]);
      (cell nt.sources 9).route = .handshake ∧ (∀ e ∈ nt.queue, e.source ≠ 9) ∧ nt.queue.length = 8 ∧
      (cell nt.sources 21).route = .handshake ∧ ∃ e ∈ nt.queue, e.source = 21) ∧
    (let nt := handshaking 9 21 (queueOf [0, 1, 2, 3, 4, 5, 6, 7]);
      (cell nt.sources 9).route = .handshake ∧ (∀ e ∈ nt.queue, e.source ≠ 9) ∧ nt.queue.length = 8 ∧
      ∀ e ∈ nt.queue, e.source ≠ 21) ∧
    (let nt := handshaking 9 9 (queueOf [0, 1, 2, 3, 4, 5, 6, 7]);
      (cell nt.sources 9).route = .handshake ∧ nt.queue.length = 8 ∧ (cell nt.sources 21).route = .interrupt) := by
  decide +kernel

/-- The table one entry short of full, with a malformed request at its offer, the answer stage empty or occupied, and
where it waits; a hold limit of 0; REFUSE with an empty queue and no credit. -/
theorem witness_TakeOfARefusedRequest :
    (∃ s : State, s.Brings (.requestOffer badReq) badReq ∧ s.StoreMatches ∧ s.dev.mode ≠ .draining ∧
      s.order.length = 255 ∧ badReq.wellFormed = false ∧ s.answer.stage = none ∧ s.answerFront badReq.source = none) ∧
    (∃ s : State, s.Brings (.requestOffer badReq) badReq ∧ s.StoreMatches ∧ s.answer.stage ≠ none) ∧
    (∃ s : State, s.Brings .requestTake badReq ∧ s.StoreMatches ∧ s.dev.mode ≠ .draining ∧ s.order.length < 256) ∧
    (∃ s : State, s.Brings (.requestOffer readReq) readReq ∧ s.StoreMatches ∧ s.dev.mode ≠ .draining ∧
      readReq.wellFormed = true ∧
      (s.stream (s.classify readReq)).live.holdLimit ≤ (s.queue (s.classify readReq)).length) ∧
    (∃ s : State, s.Brings (.requestOffer readReq) readReq ∧ s.StoreMatches ∧
      (s.queue (s.classify readReq)).length < (s.stream (s.classify readReq)).live.holdLimit ∧
      (s.stream (s.classify readReq)).mode = .on ∧ s.dev.mode = .regulate ∧
      (s.stream (s.classify readReq)).live.policy = .refuse ∧ s.queue (s.classify readReq) = [] ∧
      (s.stream (s.classify readReq)).credit < readReq.beats.toNat) :=
  ⟨⟨abandoned 255, .inl ⟨rfl, ready_of_check _ (by decide +kernel)⟩, matches_abandoned 255, by decide +kernel,
      by decide +kernel, by decide +kernel, by decide +kernel, by decide +kernel⟩,
    ⟨occupied State.reset, .inl ⟨rfl, ready_of_check _ (by decide +kernel)⟩, matches_cleared rfl rfl, by decide +kernel⟩,
    ⟨offering badReq State.reset,
      .inr ⟨rfl, rfl, rfl, noted_of_check _ (by decide +kernel), answersWait_of_check _ (by decide +kernel)⟩,
      matches_cleared rfl rfl, by decide +kernel, by decide +kernel⟩,
    ⟨regulated (fun p => { p with holdLimit := 0 }), .inl ⟨rfl, ready_of_check _ (by decide +kernel)⟩,
      matches_cleared rfl rfl, by decide +kernel, by decide +kernel, by decide +kernel⟩,
    ⟨regulated (fun p => { p with policy := .refuse }), .inl ⟨rfl, ready_of_check _ (by decide +kernel)⟩,
      matches_cleared rfl rfl, by decide +kernel, by decide +kernel, by decide +kernel, by decide +kernel, by decide +kernel, by decide +kernel⟩⟩

/-- Every pool one request short of full: 255 order entries, 95 store records and, in 73 WRITEs of 14 beats, 1022 write
data beats. -/
def nearlyFull : State :=
  { abandoned 160 with
    up := { State.reset.up with seq := 255, draws := 255 }
    store := (List.range 95).map (fun k =>
      if k < 73 then { record (160 + k) with kind := .write, beats := 14, writeRef := some (160 + k) }
      else record (160 + k))
    order := (abandoned 160).order ++ (List.range 95).map (fun k =>
      if k < 73 then { entry (160 + k) .queued with kind := .write, beats := 14 } else entry (160 + k) .queued)
    wdb := (List.range 73).map (fun k => { key := 160 + k, data := List.replicate 14 0 }) }

/-- A WRITE at its offer, at reset and where it takes the last entry, the last record and the last beats; a READ where it
waits. -/
theorem witness_TakeOfAKeptRequest :
    (let s := State.reset;
      s.Brings (.requestOffer writeReq) writeReq ∧ s.dev.mode ≠ .draining ∧ s.order.length < 256 ∧
      writeReq.wellFormed = true ∧ writeReq.carriesItsBeats = true ∧
      (s.queue (s.classify writeReq)).length < (s.stream (s.classify writeReq)).live.holdLimit ∧
      (s.stream (s.classify writeReq)).mode ≠ .on ∧ s.store.length < 96 ∧
      s.bufferUsed + writeReq.beats.toNat ≤ 1024) ∧
    (let s := nearlyFull;
      s.Brings (.requestOffer writeReq) writeReq ∧ s.dev.mode ≠ .draining ∧ s.order.length = 255 ∧
      (s.queue (s.classify writeReq)).length + 1 = (s.stream (s.classify writeReq)).live.holdLimit ∧
      s.store.length = 95 ∧ s.bufferUsed + writeReq.beats.toNat = 1024) ∧
    (let s := offering readReq State.reset;
      s.Brings .requestTake readReq ∧ readReq.wellFormed = true ∧ readReq.carriesItsBeats = true) :=
  ⟨⟨.inl ⟨rfl, ready_reset⟩, by decide +kernel, by decide +kernel, by decide +kernel, by decide +kernel,
      by decide +kernel, by decide +kernel, by decide +kernel, by decide +kernel⟩,
    ⟨.inl ⟨rfl, ready_of_check _ (by decide +kernel)⟩, by decide +kernel, by decide +kernel, by decide +kernel,
      by decide +kernel, by decide +kernel⟩,
    ⟨.inr ⟨rfl, rfl, rfl, noted_of_check _ (by decide +kernel), answersWait_of_check _ (by decide +kernel)⟩,
      by decide +kernel, by decide +kernel⟩⟩

/-- A full order table, an offer in DRAINING, and one that waits. -/
theorem witness_OffersThatWaitOrEnd :
    (∃ s : State, s.Ready ∧ s.order.length = 256 ∧ s.lacks readReq ≠ Lacking.none ∧ s.up.offer = some readReq) ∧
    (∃ s : State, s.Ready ∧ s.dev.mode = .draining) :=
  ⟨⟨offering readReq (abandoned 256), ready_of_check _ (by decide +kernel), by decide +kernel, by decide +kernel, by decide +kernel⟩,
    ⟨draining, ready_draining, rfl⟩⟩

/-- The granted readReq in the issue stage. -/
def staged : State :=
  { issued with
    issue := { issued.issue with
      stage := some { source := 5, kind := .read, address := 0x1000, beats := 1, stream := 0, writeRef := none } } }

theorem ready_staged : staged.Ready := ready_of_check _ (by decide +kernel)

theorem witness_GrantMovesTheChoice :
    (kept.Ready ∧ kept.issue.stage = none ∧ kept.grantChoice = some (record 0)) ∧
    (State.reset.Ready ∧ State.reset.grantChoice = none) ∧ (staged.Ready ∧ staged.issue.stage ≠ none) :=
  ⟨⟨ready_kept, by decide +kernel, by decide +kernel⟩, ⟨ready_reset, by decide +kernel⟩, ready_staged, by decide +kernel⟩

/-- staged with a WRITE of one beat and its beat in the buffer. -/
def stagedWrite : State :=
  { staged with
    wdb := [{ key := 0, data := [9] }]
    issue := { staged.issue with
      stage := some { source := 5, kind := .write, address := 0x1000, beats := 1, stream := 0, writeRef := some 0 } } }

/-- The last answer of a drain in the answer stage. -/
def lastAnswer : State :=
  { State.reset with
    answer := { State.reset.answer with stage := some { source := 5, status := .ok, data := [] } }
    dev := { State.reset.dev with mode := .draining, drainRunning := true } }

theorem ready_lastAnswer : lastAnswer.Ready := ready_of_check _ (by decide +kernel)

/-- A READ in the issue stage, a WRITE there with its beats in the buffer, empty stages with nothing to answer, and the
last answer of a drain. -/
theorem witness_PartnersTakeTheStages :
    (staged.Ready ∧ staged.BufferMatches ∧ ∃ q, staged.issue.stage = some q ∧ q.kind = .read) ∧
    (stagedWrite.Ready ∧ stagedWrite.BufferMatches ∧ ∃ q, stagedWrite.issue.stage = some q ∧ q.kind = .write ∧
      ∃ a ∈ stagedWrite.wdb, q.writeRef = some a.key) ∧
    (State.reset.Ready ∧ State.reset.issue.stage = none ∧ State.reset.answer.stage = none ∧
      State.reset.answerable = none ∧ State.reset.localChoice = none ∧ State.reset.dev.mode ≠ .draining) ∧
    (lastAnswer.Ready ∧ lastAnswer.dev.mode = .draining ∧ (∀ e ∈ lastAnswer.order, e.state = .abandoned) ∧
      lastAnswer.issue.stage = none) :=
  ⟨⟨ready_staged, ⟨by decide +kernel, by decide +kernel, (by intro q h; cases h; decide), by decide +kernel⟩, _, rfl, rfl⟩,
    ⟨ready_of_check _ (by decide +kernel),
      ⟨by decide +kernel, by decide +kernel, (by intro q h; cases h; decide), by decide +kernel⟩, _, rfl, rfl,
      { key := 0, data := [9] }, by decide +kernel, rfl⟩,
    ⟨ready_reset, rfl, rfl, by decide +kernel, by decide +kernel, by decide +kernel⟩, ready_lastAnswer, rfl,
    by decide +kernel, rfl⟩

theorem witness_ResponseDiscarded :
    (State.reset.Ready ∧ State.reset.oldestDue okResp.source = none) ∧
    (let s := entered .abandoned;
      s.Ready ∧ s.oldestDue okResp.source = some (entry 0 .abandoned)) ∧
    (let s := occupied (entered (.made .aborted true));
      s.Ready ∧ s.oldestDue okResp.source = some (entry 0 (.made .aborted true))) :=
  ⟨⟨ready_reset, by decide +kernel⟩, ⟨ready_of_check _ (by decide +kernel), by decide +kernel⟩,
    ready_of_check _ (by decide +kernel), by decide +kernel⟩

/-- A response at its offer, one held until UP's take, and one held with a fill left due. -/
theorem witness_MemoryAnswerFillsTheStage :
    (issued.Ready ∧ issued.answer.stage = none ∧ issued.oldestDue okResp.source = some (entry 0 .issued) ∧
      issued.answerFront okResp.source = some (entry 0 .issued) ∧ (entry 0 .issued).stream = some 0) ∧
    (let s := occupied { issued with downResp := some okResp };
      s.Ready ∧ s.downResp = some okResp ∧ s.oldestDue okResp.source = some (entry 0 .issued) ∧
      s.answerFront okResp.source = some (entry 0 .issued)) ∧
    (let s := { issued with downResp := some okResp };
      s.inReset = false ∧ s.Noted ∧ s.downResp = some okResp ∧ s.answer.stage = none ∧
      s.oldestDue okResp.source = some (entry 0 .issued) ∧ s.answerFront okResp.source = some (entry 0 .issued)) :=
  ⟨⟨ready_issued, by decide +kernel, by decide +kernel, by decide +kernel, by decide +kernel⟩,
    ⟨ready_held, by decide +kernel, by decide +kernel, by decide +kernel⟩,
    rfl, noted_of_check _ (by decide +kernel), by decide +kernel, by decide +kernel, by decide +kernel, by decide +kernel⟩

/-- An occupied answer stage, and a LOCAL front before the ISSUED entry. -/
theorem witness_ResponseHeldOnDown :
    (let s := { issued with answer := { issued.answer with stage := some { source := 5, status := .ok, data := [] } } };
      s.Ready ∧ s.oldestDue okResp.source = some (entry 0 .issued) ∧ s.answer.stage ≠ none) ∧
    (let s := occupied { State.reset with order := [entry 0 (.made .refused false), entry 1 .issued] };
      s.Ready ∧ s.oldestDue okResp.source = some (entry 1 .issued) ∧
      ∃ f, s.answerFront okResp.source = some f ∧ f.draw ≠ 1) :=
  ⟨⟨ready_of_check _ (by decide +kernel), by decide +kernel, by decide +kernel⟩,
    ready_of_check _ (by decide +kernel), by decide +kernel, entry 0 (.made .refused false), by decide +kernel,
    by decide⟩

/-- A REFUSED front and a ghost, each at UP's take and where a fill is left due. -/
theorem witness_LocalAnswerFillsTheStage :
    (∀ status ghost, status = .refused ∧ ghost = false ∨ status = .aborted ∧ ghost = true →
      let s := entered (.made status ghost)
      (s.inReset = false ∧ s.Noted ∧ s.answer.stage = none ∧ s.StoreMatches ∧ s.answerable = none ∧
        s.localChoice = some (entry 0 (.made status ghost))) ∧
      ((occupied s).Ready ∧ (occupied s).StoreMatches ∧ (occupied s).answerable = none ∧
        (occupied s).localChoice = some (entry 0 (.made status ghost)))) ∧
    State.reset.Ready := by
  refine ⟨?_, ready_reset⟩
  rintro _ _ (⟨rfl, rfl⟩ | ⟨rfl, rfl⟩)
  all_goals
    exact ⟨⟨rfl, noted_of_check _ (by decide +kernel), rfl,
        ⟨by decide +kernel, by decide +kernel, by decide +kernel⟩, by decide +kernel, by decide +kernel⟩,
      ready_of_check _ (by decide +kernel), ⟨by decide +kernel, by decide +kernel, by decide +kernel⟩, by decide +kernel,
      by decide +kernel⟩

/-- RUNNING at the last count of a frame and before it; ARMED in SYNC0; FREE; a cascade tick made and none. -/
theorem witness_FrameStartAndCascadeTick :
    (let s := timed { Timer.cold with state := .running, count := 65534 };
      s.Ready ∧ (s.timer 1).state = .running ∧ (s.timer 1).count + 1 = (s.timer 1).frameLength) ∧
    (let s := timed { Timer.cold with state := .running, count := 65533 };
      s.Ready ∧ (s.timer 1).count + 1 ≠ (s.timer 1).frameLength) ∧
    (let s := timed { Timer.cold with state := .armed, sync := .sync0 };
      s.Ready ∧ (s.timer 1).sync ≠ .free ∧ (s.timer 1).state ≠ .stopped) ∧
    (State.reset.Ready ∧ (State.reset.timer 1).sync = .free ∧ cell State.reset.cascades 1 = 0) ∧
    (let s := { timed { Timer.cold with clock := .cascade } with cascades := State.reset.cascades.set 1 1 };
      s.Ready ∧ 0 < cell s.cascades 1 ∧ (s.timer 1).clock = .cascade) ∧
    (let s := { State.reset with cascades := State.reset.cascades.set 1 1 };
      s.Ready ∧ 0 < cell s.cascades 1 ∧ (s.timer 1).clock ≠ .cascade) :=
  ⟨⟨ready_of_check _ (by decide +kernel), by decide +kernel, by decide +kernel⟩,
    ⟨ready_of_check _ (by decide +kernel), by decide +kernel⟩,
    ⟨ready_of_check _ (by decide +kernel), by decide +kernel, by decide +kernel⟩,
    ⟨ready_reset, by decide +kernel, by decide +kernel⟩,
    ⟨ready_of_check _ (by decide +kernel), by decide +kernel, by decide +kernel⟩,
    ready_of_check _ (by decide +kernel), by decide +kernel, by decide +kernel⟩

theorem witness_FrameStartReachesABoundStream :
    (let s := { State.reset with deliveries := [(0, 3)] };
      s.Ready ∧ (0, 3) ∈ s.deliveries ∧ (s.stream 3).live.timer = 0) ∧
    (let s := { State.reset with deliveries := [(1, 3)] };
      s.Ready ∧ (1, 3) ∈ s.deliveries ∧ (s.stream 3).live.timer ≠ 1) ∧
    (State.reset.Ready ∧ (0, 3) ∉ State.reset.deliveries) :=
  ⟨⟨ready_of_check _ (by decide +kernel), by decide +kernel, by decide +kernel⟩,
    ⟨ready_of_check _ (by decide +kernel), by decide +kernel, by decide +kernel⟩, ready_reset, by decide +kernel⟩

/-- Two records of one source in drawing order, the later one a seed. -/
theorem witness_UrgencyClosureIsSmallest :
    [record 0, record 1].Pairwise (fun a b => a.draw < b.draw) ∧
    (record 0, true) ∈ urgencyClosure (fun r => r.draw == 1) [record 0, record 1] := by decide +kernel

/-- kept with its record at its last tick. -/
def expiring : State := { kept with store := [{ record 0 with age := some 1 }] }

theorem ready_expiring : expiring.Ready := ready_of_check _ (by decide +kernel)
theorem matches_expiring : expiring.StoreMatches := ⟨by decide +kernel, by decide +kernel, by decide +kernel⟩

/-- expiring one period before its age tick. -/
def due : State := nearing 10 expiring

theorem ready_due : due.Ready := ready_of_check _ (by decide +kernel)
theorem matches_due : due.StoreMatches := ⟨by decide +kernel, by decide +kernel, by decide +kernel⟩

/-- due in its next period, every tick of which is still to be taken. -/
def overdue : State := due.nextPeriod

theorem ready_overdue : overdue.Ready := ready_of_check _ (by decide +kernel)
theorem matches_overdue : overdue.StoreMatches := ⟨by decide +kernel, by decide +kernel, by decide +kernel⟩
theorem from_due : due.AgeTickFrom overdue := .inr ⟨by decide +kernel, by decide +kernel, rfl⟩
theorem from_overdue : overdue.AgeTickFrom overdue := .inl ⟨by decide +kernel, rfl⟩

/-- A record at its last tick before the period of an age tick and in it; a period of none; and the tick of tap 0, with
no age tick untaken, with a tick of its own to take, and with none. -/
theorem witness_AgeTickAgesAndExpires :
    (due.Ready ∧ due.AgeTickFrom overdue ∧ due.StoreMatches ∧ due.dev.mode ≠ .draining) ∧
    (overdue.Ready ∧ overdue.AgeTickFrom overdue ∧ overdue.StoreMatches ∧ overdue.dev.mode ≠ .draining) ∧
    (expiring.Ready ∧ ¬ expiring.ageOwed ∧ ¬ tapDue (expiring.timebase + 1) expiring.ageTap) ∧
    (∃ u, overdue.tickOwed 0 u) ∧ ¬ tapDue (overdue.timebase + 1) 1 :=
  ⟨⟨ready_due, from_due, matches_due, by decide +kernel⟩, ⟨ready_overdue, from_overdue, matches_overdue, by decide +kernel⟩,
    ⟨ready_expiring, by decide +kernel, by decide +kernel⟩, by decide +kernel, by decide +kernel⟩

/-- An expiry under FORCE, and one under DROP; a drawing number that no record carries, and one whose record expires
under the other action. -/
theorem witness_OneRecordExpires :
    (expiring.Ready ∧ (∀ x ∈ expiring.store, x.draw ≠ 7) ∧
      ∀ x ∈ expiring.store, x.draw = 0 → x.age = some 1 → (expiring.stream x.stream).live.ageAction ≠ .drop) ∧
    (expiring.Ready ∧ expiring.StoreMatches ∧ ∃ r ∈ expiring.store, r.age = some 1 ∧
      (expiring.stream r.stream).live.ageAction = .force) ∧
    (let s := { expiring with
      streams := updAt expiring.streams 0 (fun st => { st with live := { st.live with ageAction := .drop } }) };
      s.Ready ∧ s.StoreMatches ∧ ∃ r ∈ s.store, r.age = some 1 ∧ (s.stream r.stream).live.ageAction = .drop) :=
  ⟨⟨ready_expiring, by decide +kernel, by decide +kernel⟩, ⟨ready_expiring, matches_expiring, { record 0 with age := some 1 }, by decide +kernel, by decide +kernel,
      by decide +kernel⟩,
    ready_of_check _ (by decide +kernel), ⟨by decide +kernel, by decide +kernel, by decide +kernel⟩,
    { record 0 with age := some 1 }, by decide +kernel, by decide +kernel, by decide +kernel⟩

/-- The handshake at a port state, with source 5 at the head and a timer. -/
def ported (port : PortState) (timer : Nat) : State :=
  { State.reset with
    nt := { Notices.cold with queue := [{ source := 5, causes := 1 }], port := port, timer := timer } }

/-- The handshake at a port state, with the hold and the queue written out. -/
def quiet (port : PortState) (hold : Bool) (queue : List HsEntry) : State :=
  { State.reset with nt := { Notices.cold with queue := queue, port := port, hold := hold } }

/-- An entry to present in IDLE; no presentation due; PRESENTING; IDLE; RECOVERING with nothing waiting, with the hold
set, and with an entry waiting. -/
theorem witness_HandshakePort :
    (∃ (nt : Notices) (e : HsEntry) (rest : List HsEntry), nt.queue = e :: rest ∧ nt.port = .idle ∧ nt.hold = false) ∧
    (State.reset.Ready ∧ State.reset.nt.queue = [] ∧ State.reset.nt.port = .idle) ∧
    ((ported .presenting 0).Ready ∧ (ported .presenting 0).nt.port = .presenting ∧
      ∃ e rest, (ported .presenting 0).nt.queue = e :: rest) ∧
    ((quiet .recovering false []).Ready ∧ (quiet .recovering false []).nt.port = .recovering) ∧
    (let s := quiet .recovering true [{ source := 5, causes := 1 }];
      s.Ready ∧ s.nt.port = .recovering ∧ s.nt.hold = true) ∧
    ((ported .recovering 0).Ready ∧ (ported .recovering 0).nt.port = .recovering ∧
      (ported .recovering 0).nt.queue ≠ [] ∧ (ported .recovering 0).nt.hold = false) :=
  ⟨⟨(ported .idle 0).nt, _, _, rfl, rfl, rfl⟩, ⟨ready_reset, rfl, rfl⟩,
    ⟨ready_of_check _ (by decide +kernel), rfl, _, _, rfl⟩, ⟨ready_of_check _ (by decide +kernel), rfl⟩,
    ⟨ready_of_check _ (by decide +kernel), rfl, rfl⟩,
    ready_of_check _ (by decide +kernel), rfl, by decide, rfl⟩

/-- IDLE with nothing waiting, IDLE with the hold set, RECOVERING; below the limit of 1000 at the count 998, and the
timeout at 999. -/
theorem witness_HandshakeTimer :
    (State.reset.Ready ∧ State.reset.nt.port ≠ .presenting ∧ State.reset.nt.queue = []) ∧
    (let s := quiet .idle true [{ source := 5, causes := 1 }];
      s.Ready ∧ s.nt.port = .idle ∧ s.nt.queue ≠ []) ∧
    ((ported .recovering 0).Ready ∧ (ported .recovering 0).nt.port = .recovering) ∧
    (let s := ported .presenting 998;
      s.Ready ∧ s.nt.port = .presenting ∧ s.nt.timer + 1 < s.nt.limit) ∧
    (let s := ported .presenting 999;
      s.Ready ∧ s.nt.port = .presenting ∧ s.nt.limit ≤ s.nt.timer + 1 ∧ ∃ e rest, s.nt.queue = e :: rest) :=
  ⟨⟨ready_reset, by decide +kernel, rfl⟩,
    ⟨ready_of_check _ (by decide +kernel), rfl, by decide⟩, ⟨ready_of_check _ (by decide +kernel), rfl⟩,
    ⟨ready_of_check _ (by decide +kernel), by decide +kernel, by decide +kernel⟩,
    ready_of_check _ (by decide +kernel), by decide +kernel, by decide +kernel, _, _, rfl⟩

/-- Nothing to wait for, at the edge and at the command; an ISSUED entry left, at each; and DRAINING. -/
theorem witness_WarmResetStarts :
    (State.reset.Ready ∧ State.reset.dev.mode ≠ .draining ∧ State.reset.order = [] ∧ State.reset.issue.stage = none ∧
      State.reset.answer.stage = none) ∧
    (issued.Ready ∧ issued.dev.mode ≠ .draining ∧ ∃ e ∈ issued.order, e.state ≠ .abandoned) ∧
    (draining.Ready ∧ draining.dev.mode = .draining) ∧
    ((writingAt commandAddr State.reset).TakesWord commandAddr ∧
      (writingAt commandAddr State.reset).dev.mode ≠ .draining ∧
      (∃ b, exec .wrstnFall (writingAt commandAddr State.reset) = .next b) ∧
      (∃ b, exec .warmReset (writingAt commandAddr State.reset) = .next b)) ∧
    (let s := writingAt commandAddr issued;
      s.TakesWord commandAddr ∧ s.dev.mode ≠ .draining ∧ s.StoreMatches ∧ (∃ e ∈ s.order, e.state ≠ .abandoned) ∧
      ∃ b, exec .warmReset s = .next b) ∧
    ((writingAt commandAddr draining).TakesWord commandAddr ∧
      (writingAt commandAddr draining).dev.mode = .draining) :=
  ⟨⟨ready_reset, by decide +kernel, rfl, rfl, rfl⟩, ⟨ready_issued, by decide +kernel, by decide +kernel⟩,
    ⟨ready_draining, rfl⟩, ⟨words_reset _, by decide +kernel, ⟨_, rfl⟩, ⟨_, rfl⟩⟩,
    ⟨words_at _ (by decide +kernel), by decide +kernel, ⟨by decide +kernel, by decide +kernel, by decide +kernel⟩,
      by decide +kernel, _, rfl⟩,
    words_draining _, rfl⟩

/-- The drain at a timer and a limit. -/
def draining1 (timer limit : Nat) (run : Bool) (s : State) : State :=
  { s with dev := { mode := .draining, drainRunning := run, drainTimer := timer, drainLimit := limit } }

/-- The tick to the limit with no response on DOWN and with one held; the tick before it; the limit 0; the stopped
timer; each before the period of an age tick, and the first in it. -/
theorem witness_DrainTimerAndTimeout :
    (let s := nearing 10 (draining1 4095 4096 true issued);
      s.Ready ∧ s.dev.drainLimit ≤ min 65535 (s.dev.drainTimer + 1) ∧ s.store = [] ∧ s.downResp = none ∧
      s.AgeTickFrom s.nextPeriod) ∧
    (let s := (nearing 10 (draining1 4095 4096 true issued)).nextPeriod;
      s.Ready ∧ s.dev.drainLimit ≤ min 65535 (s.dev.drainTimer + 1) ∧ s.store = [] ∧ s.downResp = none ∧
      s.AgeTickFrom s) ∧
    (let s := nearing 10 (draining1 4095 4096 true (occupied { issued with downResp := some okResp }));
      s.Ready ∧ s.downResp = some okResp ∧ s.oldestDue okResp.source = some (entry 0 .issued)) ∧
    (let s := nearing 10 (draining1 4094 4096 true issued);
      s.Ready ∧ s.store = [] ∧ min 65535 (s.dev.drainTimer + 1) < s.dev.drainLimit) ∧
    (let s := nearing 10 (draining1 65535 0 true issued);
      s.Ready ∧ s.store = [] ∧ s.dev.drainLimit = 0) ∧
    (let s := nearing 10 (draining1 4096 4096 false issued);
      s.Ready ∧ s.store = [] ∧ s.dev.drainRunning = false) :=
  ⟨⟨ready_of_check _ (by decide +kernel), by decide +kernel, by decide +kernel, by decide +kernel,
      .inr ⟨by decide +kernel, by decide +kernel, rfl⟩⟩,
    ⟨ready_of_check _ (by decide +kernel), by decide +kernel, by decide +kernel, by decide +kernel,
      .inl ⟨by decide +kernel, rfl⟩⟩,
    ⟨ready_of_check _ (by decide +kernel), by decide +kernel, by decide +kernel⟩,
    ⟨ready_of_check _ (by decide +kernel), by decide +kernel, by decide +kernel⟩,
    ⟨ready_of_check _ (by decide +kernel), by decide +kernel, by decide +kernel⟩,
    ready_of_check _ (by decide +kernel), by decide +kernel, by decide +kernel⟩

/-- overdue with one timer's tick untaken, that of timer 1, which tap 1 clocks. -/
def owing : State :=
  { overdue with
    timers := overdue.timers.set 1 { Timer.cold with clock := .tap 1 }
    timerTicks := (Vector.replicate 4 false).set 1 true }

/-- overdue with its timers' ticks taken. -/
def owingAge : State := { overdue with timerTicks := Vector.replicate 4 false }

/-- A tick untaken; two timers at the last count of their frames before a period in which tap 0 ticks and tap 1 does not;
a record at its last tick before the period of an age tick and in it; the drain at its limit, before it and stopped; a
period without an age tick; and a period that begins with a timer's tick untaken, and with the age tick alone. -/
theorem witness_TicksAndEdgesAtEveryTimer :
    (overdue.Ready ∧ ∃ u, overdue.tickOwed 0 u) ∧
    (let x : Timer := { Timer.cold with state := .running, count := 65534 };
      let s := { State.reset with timers := (State.reset.timers.set 0 x).set 3 x };
      s.Ready ∧ s.quiet ∧ tapDue (s.timebase + 1) 0 ∧ s.nextPeriod.tapHit 0 0 = .frame .tick ∧
      s.nextPeriod.tapHit 0 3 = .frame .tick ∧ (∀ u, ¬ s.tickOwed 1 u) ∧ ¬ tapDue (s.timebase + 1) 1 ∧
      ¬ s.ageOwed ∧ ¬ tapDue (s.timebase + 1) s.ageTap) ∧
    (due.Ready ∧ due.AgeTickFrom overdue ∧ due.StoreMatches ∧ due.dev.mode ≠ .draining) ∧
    (overdue.AgeTickFrom overdue ∧ overdue.StoreMatches ∧ overdue.dev.mode ≠ .draining) ∧
    (let s := nearing 10 (draining1 4095 4096 true issued);
      s.Ready ∧ s.AgeTickFrom s.nextPeriod ∧ s.dev.mode = .draining ∧ s.store = [] ∧ s.dev.timesOut) ∧
    (let s := nearing 10 (draining1 4094 4096 true issued);
      s.Ready ∧ s.dev.mode = .draining ∧ s.store = [] ∧ ¬ s.dev.timesOut ∧ s.dev.drainRunning = true) ∧
    (let s := nearing 10 (draining1 4096 4096 false issued);
      s.Ready ∧ s.dev.mode = .draining ∧ s.store = [] ∧ s.dev.drainRunning = false) ∧
    (owing.Ready ∧ owing.beginsPeriod (.tapTick 0) ∧ owing.tickOwed 1 1 ∧ ∀ i, ∀ v < 1, ¬ owing.tickOwed i v) ∧
    (owingAge.Ready ∧ owingAge.beginsPeriod (.tapTick 0) ∧ (∀ j u, ¬ owingAge.tickOwed j u) ∧ owingAge.ageOwed) :=
  ⟨⟨ready_overdue, by decide +kernel⟩,
    ⟨ready_of_check _ (by decide +kernel), by decide +kernel, by decide +kernel, by decide +kernel, by decide +kernel,
      by decide +kernel, by decide +kernel, by decide +kernel, by decide +kernel⟩,
    ⟨ready_due, from_due, matches_due, by decide +kernel⟩, ⟨from_overdue, matches_overdue, by decide +kernel⟩,
    ⟨ready_of_check _ (by decide +kernel), .inr ⟨by decide +kernel, by decide +kernel, rfl⟩, by decide +kernel,
      by decide +kernel, ⟨rfl, rfl, by decide, by decide⟩⟩,
    ⟨ready_of_check _ (by decide +kernel), rfl, by decide +kernel, fun h => absurd h.2.2.2 (by decide), rfl⟩,
    ⟨ready_of_check _ (by decide +kernel), rfl, by decide +kernel, rfl⟩,
    ⟨ready_of_check _ (by decide +kernel), .inl ⟨0, rfl, by decide +kernel, by decide +kernel⟩, by decide +kernel,
      by decide +kernel⟩,
    ready_of_check _ (by decide +kernel), .inl ⟨0, rfl, by decide +kernel, by decide +kernel⟩, by decide +kernel,
    by decide +kernel⟩

/-- A warm reset that has started with an ABANDONED entry and nothing to wait for, a WRITE frame at the command register. -/
def begun : State := writingAt commandAddr (draining1 0 4096 true (entered .abandoned))

theorem begun_begun : begun.Begun :=
  ⟨rfl, noted_of_check _ (by decide +kernel), rfl, by unfold State.drainOver; decide +kernel⟩

/-- A start with its completion to follow; a drain with its last answer in the stage, and one with its last request in
the issue stage; nothing left at the start, by WRSTn and by the command, and with an offer stalled. -/
theorem witness_WarmResetCompletes :
    (begun.Begun ∧ begun.mgmt.frame = .writing commandAddr ∧ (∃ t, exec .warmResetCompletion begun = .next t) ∧
      ¬ AsksReset (.setMode 1)) ∧
    (lastAnswer.Ready ∧ lastAnswer.dev.mode = .draining ∧ (∀ e ∈ lastAnswer.order, e.state = .abandoned) ∧
      lastAnswer.issue.stage = none) ∧
    (let s := draining1 9 4096 true { staged with order := [entry 0 .abandoned] };
      s.Ready ∧ (∀ e ∈ s.order, e.state = .abandoned) ∧ (∃ q, s.issue.stage = some q) ∧ s.answer.stage = none) ∧
    (State.reset.Ready ∧ State.reset.dev.mode ≠ .draining ∧ State.reset.order = [] ∧ State.reset.issue.stage = none ∧
      State.reset.answer.stage = none ∧ ∃ b, exec .wrstnFall State.reset = .next b) ∧
    (offering readReq (abandoned 256)).Ready ∧
    ((writingAt commandAddr State.reset).TakesWord commandAddr ∧ (writingAt commandAddr State.reset).order = []) :=
  ⟨⟨begun_begun, rfl, ⟨_, rfl⟩, by simp [AsksReset]⟩,
    ⟨ready_lastAnswer, rfl, by decide +kernel, rfl⟩,
    ⟨ready_of_check _ (by decide +kernel), by decide +kernel, ⟨_, rfl⟩, rfl⟩,
    ⟨ready_reset, by decide +kernel, rfl, rfl, rfl, _, rfl⟩, ready_of_check _ (by decide +kernel), words_reset _, rfl⟩

/-- Cold reset in force with transfers standing on the two channels. -/
def cold (offer : Option Request) (resp : Option Response) : State :=
  { State.reset with inReset := true, up := { State.reset.up with offer := offer }, downResp := resp }

theorem cold_held (offer : Option Request) (resp : Option Response) : (cold offer resp).heldCold := fun _ => rfl

/-- The channels free, one of them or both standing; a malformed request, a READ and a WRITE. -/
theorem witness_ColdResetAndRelease :
    (∀ offer resp, (cold offer resp).inReset = true ∧ (cold offer resp).heldCold ∧
      (cold offer resp).up.offer = offer ∧ (cold offer resp).downResp = resp) ∧
    badReq.wellFormed = false ∧ (readReq.wellFormed = true ∧ readReq.carriesItsBeats = true) ∧
    (writeReq.wellFormed = true ∧ writeReq.carriesItsBeats = true ∧ writeReq.kind = .write) ∧
    State.reset.inReset = false :=
  ⟨fun o r => ⟨rfl, cold_held o r, rfl, rfl⟩, by decide, ⟨by decide, by decide⟩, ⟨by decide, by decide, rfl⟩, rfl⟩

/-- A state in one part of a frame. -/
def framed (f : SpiFrame) : State :=
  { State.reset with mgmt := { State.reset.mgmt with selected := true, frame := f } }

theorem ready_framed (f : SpiFrame) : (framed f).Ready := ready_of_check _ check_reset

/-- CSn high and low; every part of a frame; bytes 0 next to the two operations. -/
theorem witness_SpiFrames :
    (State.reset.Ready ∧ State.reset.mgmt.selected = false) ∧
    (∀ f, (framed f).Ready ∧ (framed f).mgmt.selected = true ∧ (framed f).mgmt.frame = f) ∧
    (∃ h : Header, h.byte = 0xC5) ∧ (∃ h : Header, h.byte = 0xCA) ∧
    (∃ h : Header, h.byte = 0xC4 ∧ h.byte ≠ 0xC5 ∧ h.byte ≠ 0xCA) ∧
    (∃ h : Header, h.byte = 0xCB ∧ h.byte ≠ 0xC5 ∧ h.byte ≠ 0xCA) :=
  ⟨⟨ready_reset, rfl⟩, fun f => ⟨ready_framed f, rfl, rfl⟩, ⟨⟨0xC5, 0, 0⟩, rfl⟩, ⟨⟨0xCA, 0, 0⟩, rfl⟩,
    ⟨⟨0xC4, 0, 0⟩, by decide⟩, ⟨0xCB, 0, 0⟩, by decide⟩

/-- Addresses at the ends of groups: the first unmapped, the last mapped and its successor, the command register; the
first and the last word of each block at its last index. -/
theorem witness_ReadsOfTheWindow :
    State.reset.Ready ∧ addrKind 0x010 = .unmapped ∧ addrKind 0xFFFF = .unmapped ∧ addrKind 0x78B = .unmapped ∧
    addrKind 0x78A ≠ .unmapped ∧ addrKind 0x000 ≠ .unmapped ∧ addrKind 0x001 = .command ∧
    State.reset.wordAt (0x040 + 4 * 31 + 3) = some 0 ∧ State.reset.wordAt (0x100 + 0x40 * 15 + 0x1B) = some 0 ∧
    State.reset.wordAt (0x100 + 0x40 * 15 + 0x2E) = some 0 ∧ State.reset.wordAt (0x500 + 8 * 3 + 2) = some 65535 ∧
    State.reset.wordAt (0x600 + 8 * 23 + 4) = some 0 ∧ State.reset.wordAt 0x702 = some 31 ∧
    State.reset.wordAt 0x78A = some 0 := by
  refine ⟨ready_reset, ?_⟩
  decide +kernel

/-- A read-only, an unmapped and a writable address and the command register under a WRITE frame; a word with unused
bits; a WRITE frame elsewhere; a header and a READ frame. -/
theorem witness_WordsActByTheirAddress :
    (∀ a, (writingAt a State.reset).TakesWord a) ∧ addrKind 0x000 = .readOnly ∧ addrKind 0xFFFF = .unmapped ∧
    (decodeCommand 0x01FFFFE3).row = .install 3 ∧
    (wordTarget (.ageTapWrite 5) = some Reg.ageTap.addr ∧ (framed (.writing 0)).Ready ∧
      (framed (.writing 0)).mgmt.frame ≠ .writing Reg.ageTap.addr) ∧
    ((framed .header).Ready ∧
      ∀ a v, wordTarget (.registerWrite a v) = some a ∧ (framed .header).mgmt.frame ≠ .writing a) ∧
    ((framed (.writing 0)).Ready ∧
      ∀ a, (framed (.writing 0)).mgmt.frame ≠ .turnaround a ∧ (framed (.writing 0)).mgmt.frame ≠ .reading a) :=
  ⟨words_reset, by decide, by decide, by decide, ⟨rfl, ready_framed _, by decide⟩,
    ⟨ready_framed _, fun a v => ⟨rfl, (fun h => by cases h)⟩⟩, ready_framed _, fun a => ⟨(fun h => by cases h), (fun h => by cases h)⟩⟩

/-- The greatest number of every field and parameter, and the next one. -/
theorem witness_StagingAndPendingWrites :
    (∀ a, (writingAt a State.reset).TakesWord a) ∧
    (∀ f, ∃ v v' : Word, v.toNat ≤ stagingMost f ∧ stagingMost f < v'.toNat) ∧
    (∀ p, ∃ v v' : Word, v.toNat ≤ paramMost p ∧ paramMost p < v'.toNat) :=
  ⟨words_reset,
    fun f => ⟨BitVec.ofNat 32 (stagingMost f), BitVec.ofNat 32 (stagingMost f + 1), by cases f <;> decide,
      by cases f <;> decide⟩,
    fun p => ⟨BitVec.ofNat 32 (paramMost p), BitVec.ofNat 32 (paramMost p + 1), by cases p <;> decide,
      by cases p <;> decide⟩⟩

/-- The numbers at the ends of each range, on a STOPPED and on a RUNNING timer. -/
theorem witness_TimerFieldWrites :
    (∀ a, (writingAt a State.reset).TakesWord a ∧ ((writingAt a State.reset).timer 1).state = .stopped) ∧
    (∀ a, (writingAt a (timed { Timer.cold with state := .running })).TakesWord a ∧
      ((writingAt a (timed { Timer.cold with state := .running })).timer 1).state ≠ .stopped) ∧
    ((1 : Word).toNat = 1 ∧ (65535 : Word).toNat = 65535 ∧ (0 : Word).toNat = 0 ∧ 65535 < (65536 : Word).toNat) ∧
    ((17 : Word).toNat < 18 ∧ (18 : Word).toNat = 18 ∧ (1 : TimerId) ≠ 0 ∧ 18 < (19 : Word).toNat) ∧
    ((2 : Word).toNat < 3 ∧ 3 ≤ (3 : Word).toNat) :=
  ⟨fun a => ⟨words_reset a, show (State.reset.timer 1).state = .stopped by decide +kernel⟩,
    fun a => ⟨words_at a (by decide +kernel),
      show ((timed { Timer.cold with state := .running }).timer 1).state ≠ .stopped by decide +kernel⟩,
    by decide, by decide, by decide⟩

theorem witness_SelectTapAndLimitWrites :
    (∀ a, (writingAt a State.reset).TakesWord a) ∧ (15 : Word).toNat = (15 : StreamId).val ∧ (16 : Word).toNat = 16 ∧
    16 < (17 : Word).toNat ∧ (15 : Word).toNat = (15 : Tap).val ∧ (1 : Word).toNat = 1 ∧ (65535 : Word).toNat = 65535 ∧
    (0 : Word).toNat = 0 ∧ 65535 < (65536 : Word).toNat :=
  ⟨words_reset, by decide, by decide, by decide, by decide, by decide, by decide, by decide, by decide⟩

theorem witness_NoticeConfigWrites :
    (∀ a, (writingAt a State.reset).TakesWord a) ∧
    ∀ f, ∃ v v' : Word, v.toNat = settingMost f ∧ settingMost f < v'.toNat :=
  ⟨words_reset, fun f => ⟨BitVec.ofNat 32 (settingMost f), BitVec.ofNat 32 (settingMost f + 1),
    by cases f <;> simp [settingMost], by cases f <;> simp [settingMost]⟩⟩

theorem witness_CauseRegisterWrites :
    (Cause.memerr.bit.toNat = 2 ^ 4 ∧ Cause.mgmtFrame.bit.toNat = 2 ^ 2) ∧
    (∀ a, (writingAt a State.reset).TakesWord a) ∧ (∃ c : Instr, c = .causeClear 0 1 ∨ c = .causeWriteDirect 0 1) :=
  ⟨by decide, words_reset, .causeWriteDirect 0 1, .inr rfl⟩

/-- Page base equal to page limit, and one above it. -/
theorem witness_InstallAndRemove :
    ((writingAt commandAddr State.reset).TakesWord commandAddr ∧
      State.reset.staging.pageBase.toNat = State.reset.staging.pageLimit.toNat) ∧
    (let s := writingAt commandAddr { State.reset with staging := { MatchRule.cold with pageBase := 1 } };
      s.TakesWord commandAddr ∧ s.staging.pageLimit.toNat < s.staging.pageBase.toNat) :=
  ⟨⟨words_reset _, rfl⟩, words_at _ (by decide +kernel), by decide +kernel⟩

/-- Outside the drain and in it. -/
theorem command_states :
    ((writingAt commandAddr State.reset).TakesWord commandAddr ∧
      (writingAt commandAddr State.reset).dev.mode ≠ .draining) ∧
    ((writingAt commandAddr draining).TakesWord commandAddr ∧ (writingAt commandAddr draining).dev.mode = .draining) :=
  ⟨⟨words_reset _, by decide +kernel⟩, words_draining _, rfl⟩

theorem witness_ApplyAndDiscard :
    (∃ s : State, s.TakesWord commandAddr ∧ s.dev.mode ≠ .draining) ∧
    (∃ s : State, s.TakesWord commandAddr ∧ s.dev.mode = .draining) :=
  ⟨⟨_, command_states.1⟩, _, command_states.2⟩

theorem witness_ModeCommands :
    (∃ s : State, s.TakesWord commandAddr ∧ s.dev.mode ≠ .draining) ∧
    (∃ s : State, s.TakesWord commandAddr ∧ s.dev.mode = .draining) ∧ (1 : BitVec 2).toNat < 2 ∧ 2 ≤ (2 : BitVec 2).toNat :=
  ⟨⟨_, command_states.1⟩, ⟨_, command_states.2⟩, by decide, by decide⟩

theorem witness_TimerCommands : (writingAt commandAddr State.reset).TakesWord commandAddr := words_reset _

theorem witness_SnapshotAndUnknownCommands :
    (writingAt commandAddr State.reset).TakesWord commandAddr ∧ (Instr.unknownCommand 0).wellFormed = true ∧
    (Instr.unknownCommand 0xFF000000).wellFormed = true ∧
    (Instr.timerCmdUnknownOperation 15 7).wellFormed = true :=
  ⟨words_reset _, by decide, by decide, by decide⟩

theorem witness_CommandWordsDecode :
    (Command.snapshot 15 true).wellFormed = true ∧ (Command.unknown 0).wellFormed = true ∧
    (Command.install 31).wellFormed = true := by decide

/-- The last pending parameter of stream 15 at 4CBh, notify-after of source 23 at 6BCh, and the first free addresses after
the stream blocks' writable part, the notice block and the window. -/
theorem witness_WordsAreReadByTheirBits :
    addrKind 0x4CB = .writable (.pending 15 .priority) ∧ addrKind 0x6BC = .writable (.notice (.notifyAfter 23)) ∧
    addrKind 0x4CC = .unmapped ∧ addrKind 0x6BD = .unmapped ∧ addrKind 0x1000 = .unmapped := by decide

theorem witness_StepsLeaveNoJudgementUnmade :
    (∃ s s' : State, s.StoreMatches ∧ s.Settled ∧ step s = .next s' ∧ s'.inReset = false) ∧
    (∃ s s' : State, s.StoreMatches ∧ s.Begun ∧ step s = .next s' ∧ s'.inReset = false) ∧
    (∃ s s' : State, s.heldCold ∧ s.inReset = true ∧ step s = .next s') :=
  ⟨⟨kept, _, matches_kept, ready_kept.settled, rfl, rfl⟩,
    ⟨draining1 0 4096 true State.reset, _, matches_cleared rfl rfl,
      ⟨rfl, noted_of_check _ (by decide +kernel), rfl, by unfold State.drainOver; decide +kernel⟩, rfl, rfl⟩,
    ⟨cold none none, _, cold_held _ _, rfl, rfl⟩⟩

theorem lawful_nt (s : State) (h : s.nt = State.reset.nt) : s.nt.Lawful := by
  rw [h]
  exact ⟨by decide, by decide, fun e he => (by cases he), by decide, by decide, by unfold ofSource; decide +kernel⟩

/-- A grant is the step of kept. -/
theorem kept_steps : ∃ s', step kept = .next s' := ⟨_, rfl⟩

theorem witness_StepsKeepTheHandshakeQueue : (∃ s', step kept = .next s') ∧ kept.nt.Lawful :=
  ⟨kept_steps, lawful_nt _ rfl⟩

theorem witness_StepsKeepTheCapacities : (∃ s', step kept = .next s') ∧ kept.WithinCapacity :=
  ⟨kept_steps, by decide, by decide, by decide⟩

theorem witness_StepsKeepTheCorrespondence :
    (∃ s', step kept = .next s') ∧ kept.StoreMatches ∧ kept.issueCountsExact :=
  ⟨kept_steps, matches_kept, by unfold State.issueCountsExact; decide +kernel⟩

theorem witness_StepsKeepTheListOrder : (∃ s', step kept = .next s') ∧ kept.StoreMatches ∧ kept.listsOrdered :=
  ⟨kept_steps, matches_kept, by unfold State.listsOrdered; decide +kernel⟩

/-- Two records of one source, both urgent, the later one expired. -/
theorem witness_StepsKeepTheUrgencyClosed :
    let s := { kept with store := [{ record 0 with urgent := true }, { record 1 with urgent := true, age := some 0 }] };
    (∃ s', step s = .next s') ∧ s.urgencyClosed ∧ s.expiredUrgent :=
  ⟨⟨_, rfl⟩, by unfold State.urgencyClosed; decide +kernel, by unfold State.expiredUrgent; decide +kernel⟩

/-- The two tick rows where they begin a period and where they do not, and a cold reset. -/
theorem witness_StepsKeepTheRanges :
    (kept.inReset = false ∧ kept.beginsPeriod (.tapTick 0) ∧ ¬ kept.beginsPeriod .ageTick ∧
      (nearing 10 kept).beginsPeriod .ageTick ∧ ¬ overdue.beginsPeriod .ageTick ∧ ∃ t, exec .coldReset kept = .next t) ∧
    (∃ s', step kept = .next s') ∧ kept.pagesOrdered ∧ kept.DrainLawful ∧ kept.pendingCopies ∧ kept.streamsInRange ∧
    kept.TimersInRange ∧ (∃ t, exec (.tapTick 0) kept = .next t ∧ t.timebase = kept.timebase + 1) :=
  ⟨⟨rfl, .inl ⟨0, rfl, by decide +kernel, by decide +kernel⟩,
      (by rintro (⟨k, hk, -⟩ | ⟨-, -, h⟩); cases hk; exact absurd h (by decide +kernel)),
      .inr ⟨rfl, by decide +kernel, by decide +kernel⟩,
      (by rintro (⟨k, hk, -⟩ | ⟨-, -, h⟩); cases hk; exact absurd h (by decide +kernel)), _, rfl⟩,
    kept_steps, by unfold State.pagesOrdered; decide +kernel, ⟨by decide, by decide, by decide⟩,
    by unfold State.pendingCopies; decide +kernel,
    fun n => by
      have h : kept.stream n = Stream.cold := by
        show (Vector.replicate 16 Stream.cold)[n] = _
        simp
      rw [h]
      exact ⟨⟨by decide, by decide, by decide, by decide, by decide, by decide, by decide⟩,
        ⟨by decide, by decide, by decide, by decide, by decide, by decide, by decide⟩, by decide⟩,
    ⟨fun t => by
      have h : kept.timer t = Timer.cold := by
        show (Vector.replicate 4 Timer.cold)[t] = _
        simp
      rw [h]
      exact ⟨by decide, by decide, by decide, by decide⟩, by decide +kernel⟩, after (exec (.tapTick 0) kept), rfl, by decide +kernel⟩

/-- A kept WRITE. -/
def keptWrite : State :=
  { kept with
    store := [{ record 0 with kind := .write, writeRef := some 0 }]
    order := [{ entry 0 .queued with kind := .write }]
    wdb := [{ key := 0, data := [9] }] }

theorem witness_StepsKeepTheBufferUse :
    (∃ s', step keptWrite = .next s') ∧ keptWrite.StoreMatches ∧ keptWrite.BufferMatches :=
  ⟨⟨_, rfl⟩, ⟨by decide +kernel, by decide +kernel, by decide +kernel⟩,
    ⟨by decide +kernel, by decide +kernel, (by intro q h; cases h), by decide +kernel⟩⟩

/-- UP takes an answer while another source's front is LOCAL. -/
def taking : State := { occupied (entered (.made .refused false)) with pending := [.answerTake] }

/-- A malformed request is offered to a block at rest. -/
def asked : State := { State.reset with pending := [.requestOffer badReq] }

/-- A front that stood before, at UP's take; and a request answered at its own take. -/
theorem witness_AnswersComeFromTheFront :
    (taking.Ready ∧ taking.StoreMatches ∧ (∃ rest, taking.pending = .answerTake :: rest) ∧
      ∃ s' a, step taking = .next s' ∧ s'.answer.stage = some a ∧ a.source = 5 ∧ s'.inReset = false) ∧
    (asked.Ready ∧ asked.StoreMatches ∧ asked.answer.stage = none ∧ asked.answerFront 5 = none ∧
      ∃ s' a, step asked = .next s' ∧ s'.answer.stage = some a ∧ a.source = 5 ∧ s'.inReset = false) :=
  ⟨⟨ready_of_check _ (by decide +kernel), ⟨by decide +kernel, by decide +kernel, by decide +kernel⟩, ⟨[], rfl⟩,
      after (step taking), { source := 5, status := .refused, data := [] }, rfl, by decide +kernel, rfl,
      by decide +kernel⟩,
    ready_of_check _ (by decide +kernel), matches_cleared rfl rfl, rfl, by decide +kernel,
    after (step asked), { source := 5, status := .refused, data := [] }, rfl, by decide +kernel, rfl, by decide +kernel⟩

end Sys2Proof.Tests
end

section
/-! The proofs about classification (01): what the three match tests compare, and R2 and R3 from that. -/

namespace Sys2Proof

/-- The page number is the address divided by 4096 (1.2). -/
@[simp] theorem Request.toNat_page (r : Request) : r.page.toNat = r.address.toNat / 4096 := by
  have hlt : r.address.toNat / 4096 < 2 ^ 28 := by omega
  simpa [Request.page, Nat.shiftRight_eq_div_pow] using hlt

namespace Machine

/-- The source test is bitwise: positions where the mask is clear compare false with false. -/
theorem MatchRule.sourceTest_iff (m : MatchRule) (S : Source) :
    m.sourceTest S = true ↔
      ∀ i < 6, m.sourceMask.getLsbD i = true → S.getLsbD i = m.sourceValue.getLsbD i := by
  simp only [MatchRule.sourceTest, beq_iff_eq]
  constructor
  · intro h i _ hi
    simpa [hi] using congrArg (·.getLsbD i) h
  · intro h
    refine BitVec.eq_of_getLsbD_eq fun i hi => ?_
    cases hm : m.sourceMask.getLsbD i with
    | false => simp [hm]
    | true => simp [hm, h i hi hm]

theorem KindFilter.test_iff (f : KindFilter) (k : Kind) :
    f.test k = true ↔ f = .any ∨ (f = .read ∧ k = .read) ∨ (f = .write ∧ k = .write) := by
  cases f <;> cases k <;> simp [KindFilter.test]

theorem MatchRule.pageTest_iff (m : MatchRule) (p : Page) :
    m.pageTest p = true ↔ m.pageBase.toNat ≤ p.toNat ∧ p.toNat ≤ m.pageLimit.toNat := by
  simp [MatchRule.pageTest, BitVec.le_def]

/-- With page base 0 and page limit 2^28 - 1 no page is left out (R3). -/
theorem MatchRule.pageTest_of_full_range {m : MatchRule} (hb : m.pageBase = 0) (hl : m.pageLimit = 268435455)
    (p : Page) : m.pageTest p = true := by
  have hp : p.toNat < 268435456 := p.isLt
  rw [MatchRule.pageTest_iff, hb, hl]
  exact ⟨Nat.zero_le _, Nat.le_of_lt_succ hp⟩

/-- With page base equal to page limit one page is left (R3). -/
theorem MatchRule.pageTest_iff_of_single_page {m : MatchRule} (h : m.pageBase = m.pageLimit) (p : Page) :
    m.pageTest p = true ↔ p.toNat = m.pageBase.toNat := by
  rw [MatchRule.pageTest_iff, ← h]
  exact ⟨fun ⟨hbase, hlimit⟩ => le_antisymm hlimit hbase, fun heq => ⟨heq.ge, heq.le⟩⟩

end Machine
end Sys2Proof

namespace Sys2Proof.Proofs

open Sys2Proof Sys2Proof.Machine

/-- Settles O4: R2, position by position of the masked comparison. -/
theorem sourceTestComparesMaskedBits : Obligations.SourceTestComparesMaskedBits :=
  MatchRule.sourceTest_iff

/-- Settles O5: R3, from the two tests on the request's page number, which is its address divided by 4096. -/
theorem kindAndPageTests : Obligations.KindAndPageTests := by
  refine ⟨KindFilter.test_iff, fun m r => ?bounds, fun m r hb hl => MatchRule.pageTest_of_full_range hb hl r.page,
    fun m r h => ?single, fun m r r' h => ?samePage⟩
  case bounds => simpa using m.pageTest_iff r.page
  case single => simpa using MatchRule.pageTest_iff_of_single_page h r.page
  case samePage =>
    have hpage : r.page = r'.page := BitVec.eq_of_toNat_eq (by simpa using h)
    rw [hpage]

end Sys2Proof.Proofs
end

section
/-! The proofs about windows and eligibility (04): both the head test and the order condition ask whether a
record is the first in the store of its stream or source, and in a list in drawing order the first of them is the one
drawn before the others. -/

namespace Sys2Proof.Machine

/-- In a list whose keys rise, the first element that passes a test is the one of least key among those that pass it. -/
theorem any_find?_key_iff {α : Type} {key : α → Nat} {l : List α} {r : α} (p : α → Bool)
    (hl : l.Pairwise (fun a b => key a < key b)) (hr : r ∈ l) (hp : p r = true) :
    (l.find? p).any (fun x => key x == key r) = true ↔ ∀ x ∈ l, p x = true → key r ≤ key x := by
  induction l with
  | nil => cases hr
  | cons a l ih =>
    obtain ⟨ha, hrest⟩ := List.pairwise_cons.mp hl
    have hle : key a ≤ key r := by
      rcases List.mem_cons.mp hr with rfl | hmem
      · exact le_rfl
      · exact (ha r hmem).le
    by_cases hpa : p a = true
    · simp only [List.find?_cons_of_pos hpa, Option.any_some, beq_iff_eq]
      constructor
      · intro heq x hx _
        rcases List.mem_cons.mp hx with rfl | hmem
        · exact heq.ge
        · exact heq ▸ (ha x hmem).le
      · exact fun h => le_antisymm hle (h a List.mem_cons_self hpa)
    · have hmem : r ∈ l := (List.mem_cons.mp hr).resolve_left fun h => hpa (h ▸ hp)
      rw [List.find?_cons_of_neg hpa, ih hrest hmem, List.forall_mem_cons]
      exact (and_iff_right fun h => absurd h hpa).symm

/-! ### Windows (R56, R58) -/

theorem Params.windowOpen_iff (p : Params) (t : Timer) :
    p.windowOpen t = true ↔
      t.state ≠ .armed ∧ p.windowStart ≤ t.count ∧ t.count < min p.windowEnd t.frameLength := by
  simp only [Params.windowOpen, Bool.and_eq_true, bne_iff_ne, decide_eq_true_eq, and_assoc]

/-- No count lies from the window start on and below an end that is not past it (R58). -/
theorem Params.windowOpen_of_end_le_start {p : Params} {t : Timer}
    (h : min p.windowEnd t.frameLength ≤ p.windowStart) : p.windowOpen t = false := by
  rw [← Bool.not_eq_true, Params.windowOpen_iff]
  exact fun ⟨_, hstart, hend⟩ => absurd (hend.trans_le h) hstart.not_gt

/-! ### The store in drawing order (R46, R88) -/

/-- The store is in drawing order, as the order table is. -/
theorem State.StoreMatches.store_rising {s : State} (h : s.StoreMatches) :
    s.store.Pairwise (fun a b => a.draw < b.draw) := by
  have hshared : (s.store.map StoreRec.shared).Pairwise (fun c d => c.draw < d.draw) := by
    rw [h.correspond]
    exact List.pairwise_map.mpr (h.rising.sublist List.filter_sublist)
  rw [List.pairwise_map] at hshared
  exact hshared

/-- The oldest QUEUED entry of a source stands for the first store record of that source. -/
theorem State.StoreMatches.oldestQueued_shared {s : State} (h : s.StoreMatches) (S : Source) :
    (s.oldestQueued S).map OrderEntry.shared = (s.store.find? (fun r => r.source == S)).map StoreRec.shared := by
  have hqueued : s.oldestQueued S = s.queuedEntries.find? (fun e => e.source == S) := by
    simp only [State.oldestQueued, State.queuedEntries, List.find?_filter, Bool.and_comm, Bool.decide_and,
      Bool.decide_eq_true]
  calc (s.oldestQueued S).map OrderEntry.shared
      = (s.queuedEntries.map OrderEntry.shared).find? (fun d => d.source == S) := by
        rw [hqueued, List.find?_map]; rfl
    _ = (s.store.map StoreRec.shared).find? (fun d => d.source == S) := by rw [h.correspond]
    _ = (s.store.find? (fun r => r.source == S)).map StoreRec.shared := by rw [List.find?_map]; rfl

/-! ### The parts of the eligibility test (R62) -/

theorem State.isHead_eq_any (s : State) (r : StoreRec) :
    s.isHead r = (s.queueHead r.stream).any (fun x => x.draw == r.draw) := by
  unfold State.isHead
  cases s.queueHead r.stream <;> rfl

theorem State.orderOk_eq_any (s : State) (r : StoreRec) :
    s.orderOk r = (s.oldestQueued r.source).any (fun e => e.draw == r.draw) := by
  unfold State.orderOk
  cases s.oldestQueued r.source <;> rfl

/-- The head of a stream queue is the record of its stream drawn first (R47). -/
theorem State.StoreMatches.isHead_iff {s : State} (h : s.StoreMatches) {r : StoreRec} (hr : r ∈ s.store) :
    s.isHead r = true ↔ ∀ x ∈ s.store, x.stream = r.stream → r.draw ≤ x.draw := by
  rw [State.isHead_eq_any, State.queueHead]
  simpa using any_find?_key_iff (fun x => x.stream == r.stream) h.store_rising hr (by simp)

/-- The order condition read off the store: the record is the one of its source drawn first (R60). -/
theorem State.StoreMatches.orderOk_iff {s : State} (h : s.StoreMatches) {r : StoreRec} (hr : r ∈ s.store) :
    s.orderOk r = true ↔ ∀ x ∈ s.store, x.source = r.source → r.draw ≤ x.draw := by
  have hfirst : s.orderOk r = (s.store.find? (fun x => x.source == r.source)).any (fun x => x.draw == r.draw) := by
    have hany := congrArg (Option.any (fun d => d.draw == r.draw)) (h.oldestQueued_shared r.source)
    rw [Option.any_map, Option.any_map] at hany
    exact (s.orderOk_eq_any r).trans hany
  rw [hfirst]
  simpa using any_find?_key_iff (fun x => x.source == r.source) h.store_rising hr (by simp)

theorem State.regulated_iff (s : State) (n : StreamId) :
    s.regulated n = true ↔ (s.stream n).mode = .on ∧ s.dev.mode = .regulate := by
  simp only [State.regulated, Bool.and_eq_true, beq_iff_eq]

theorem State.slotAndPlan_iff (s : State) (r : StoreRec) :
    s.slotAndPlan r = true ↔
      (s.stream r.stream).issueCount < (s.stream r.stream).live.issueLimit ∧
      ((s.stream r.stream).live.policy = .pass ∨
       (s.windowOpen r.stream = true ∧ r.beats ≤ (s.stream r.stream).credit)) := by
  simp only [State.slotAndPlan, Bool.and_eq_true, Bool.or_eq_true, beq_iff_eq, decide_eq_true_eq]

theorem State.eligible_iff (s : State) (r : StoreRec) :
    s.eligible r = true ↔
      s.isHead r = true ∧ s.orderOk r = true ∧
      (r.urgent = true ∨ ¬ s.regulated r.stream = true ∨ s.slotAndPlan r = true) := by
  simp only [State.eligible, Bool.and_eq_true, Bool.or_eq_true, Bool.not_eq_true', Bool.not_eq_true,
    and_assoc, or_assoc]

end Sys2Proof.Machine

namespace Sys2Proof.Proofs

open Sys2Proof Sys2Proof.Machine

/-- Settles O7: R56 and R58, for the live set of the stream and its bound timer. -/
theorem windowIsOpen : Obligations.WindowIsOpen :=
  fun _ _ => ⟨Params.windowOpen_iff _ _, Params.windowOpen_of_end_le_start⟩

/-- Settles O8: R62 part by part; the head test and the order condition become statements about the drawing numbers. -/
theorem eligibilityTest : Obligations.EligibilityTest := by
  intro s r hmatch hr
  rw [s.eligible_iff, hmatch.isHead_iff hr, hmatch.orderOk_iff hr, s.regulated_iff, s.slotAndPlan_iff]

end Sys2Proof.Proofs
end

section
/-! The proofs about arbitration (05): each of the arbiter's three searches (the store for an urgent candidate, the
levels, the streams after a level's pointer) runs along a list whose keys rise (drawing number, distance below the top
level, distance from the pointer), so what it finds has the least key of all that pass. -/

namespace Sys2Proof.Machine

/-- In a list whose keys rise, a search finds the element of least key. -/
theorem key_le_of_find?_eq_some {α : Type} {key : α → Nat} {l : List α} {p : α → Bool} {r x : α}
    (hl : l.Pairwise (fun a b => key a < key b)) (hfind : l.find? p = some r) (hx : x ∈ l) (hpx : p x = true) :
    key r ≤ key x :=
  (any_find?_key_iff p hl (List.mem_of_find?_eq_some hfind) (List.find?_some hfind)).mp (by simp [hfind]) x hx hpx

/-- Two store records of one drawing number are the same record (R46). -/
theorem State.StoreMatches.eq_of_draw_eq {s : State} (h : s.StoreMatches) {r x : StoreRec} (hr : r ∈ s.store)
    (hx : x ∈ s.store) (hdraw : r.draw = x.draw) : r = x := by
  have hdistinct : (s.store.map StoreRec.draw).Nodup :=
    List.pairwise_map.mpr (h.store_rising.imp Nat.ne_of_lt)
  exact List.inj_on_of_nodup_map hdistinct hr hx hdraw

/-! ### Candidates (R63) -/

/-- The record that passes the head test is the one the search for its queue's head finds. -/
theorem State.StoreMatches.queueHead_of_isHead {s : State} (h : s.StoreMatches) {r : StoreRec} (hr : r ∈ s.store)
    (hhead : s.isHead r = true) : s.queueHead r.stream = some r := by
  rw [State.isHead_eq_any, Option.any_eq_true] at hhead
  obtain ⟨x, hx, hdraw⟩ := hhead
  rw [hx, h.eq_of_draw_eq (List.mem_of_find?_eq_some hx) hr (beq_iff_eq.mp hdraw)]

/-- The candidates of the streams are the eligible store records, each its own stream's. -/
theorem State.StoreMatches.candidate_eq_some_iff {s : State} (h : s.StoreMatches) {n : StreamId} {r : StoreRec} :
    s.candidate n = some r ↔ r ∈ s.store ∧ s.eligible r = true ∧ r.stream = n := by
  rw [State.candidate, Option.filter_eq_some_iff]
  constructor
  · intro ⟨hhead, helig⟩
    exact ⟨List.mem_of_find?_eq_some hhead, helig, by simpa using List.find?_some hhead⟩
  · rintro ⟨hr, helig, rfl⟩
    exact ⟨h.queueHead_of_isHead hr (s.eligible_iff r |>.mp helig).1, helig⟩

theorem State.candidateAt_iff (s : State) (L : Fin 8) (n : StreamId) :
    s.candidateAt L n = true ↔ (∃ r, s.candidate n = some r) ∧ (s.stream n).live.priority = L := by
  simp only [State.candidateAt, Bool.and_eq_true, beq_iff_eq, Option.isSome_iff_exists]

/-- An eligible record makes its stream hold a candidate at its live priority. -/
theorem State.StoreMatches.candidateAt_of_eligible {s : State} (h : s.StoreMatches) {r : StoreRec} (hr : r ∈ s.store)
    (helig : s.eligible r = true) : s.candidateAt (s.stream r.stream).live.priority r.stream = true :=
  (s.candidateAt_iff _ _).mpr ⟨⟨r, h.candidate_eq_some_iff.mpr ⟨hr, helig, rfl⟩⟩, rfl⟩

/-! ### Levels and the round robin (R76) -/

theorem levelsDown_falling : levelsDown.Pairwise (fun a b => a.rev.val < b.rev.val) := by decide

theorem mem_levelsDown (L : Fin 8) : L ∈ levelsDown := by
  revert L
  decide

theorem State.any_candidateAt_iff (s : State) (L : Fin 8) :
    (List.finRange 16).any (s.candidateAt L) = true ↔ ∃ n, s.candidateAt L n = true := by
  simp

/-- The level found is one that a candidate has. -/
theorem State.exists_candidateAt_topLevel {s : State} {L : Fin 8} (htop : s.topLevel = some L) :
    ∃ n, s.candidateAt L n = true := by
  have hany := List.find?_some htop
  exact (s.any_candidateAt_iff L).mp hany

/-- No candidate stands at a higher level than the one found. -/
theorem State.le_topLevel {s : State} {L M : Fin 8} {n : StreamId} (htop : s.topLevel = some L)
    (hn : s.candidateAt M n = true) : M ≤ L :=
  Fin.rev_le_rev.mp <| Fin.le_def.mpr <|
    key_le_of_find?_eq_some (key := fun M => M.rev.val) levelsDown_falling htop (mem_levelsDown M) ((s.any_candidateAt_iff M).mpr ⟨n, hn⟩)

/-- The k-th stream of the round robin lies k past the stream after the pointer. -/
theorem distance_streamAfter (p k : StreamId) : ((p + 1 + k).val + 15 - p.val) % 16 = k.val := by
  have hp := p.isLt
  have hk := k.isLt
  simp only [Fin.val_add, Fin.val_one]
  omega

/-- The round robin visits the streams by their distance from the one after the pointer. -/
theorem streamsAfter_rising (p : StreamId) :
    (streamsAfter p).Pairwise (fun a b => (a.val + 15 - p.val) % 16 < (b.val + 15 - p.val) % 16) := by
  simp only [streamsAfter, List.pairwise_map, distance_streamAfter]
  exact List.pairwise_lt_finRange 16

/-- The round robin leaves no stream out. -/
theorem mem_streamsAfter (p n : StreamId) : n ∈ streamsAfter p :=
  List.mem_map.mpr ⟨n - (p + 1), List.mem_finRange _, add_sub_cancel _ _⟩

/-! ### The two choices (R75, R76) -/

/-- The urgent choice is an urgent candidate drawn no later than any other. -/
theorem State.StoreMatches.of_urgentChoice_eq_some {s : State} (h : s.StoreMatches) {r : StoreRec}
    (hr : s.urgentChoice = some r) :
    r ∈ s.store ∧ s.eligible r = true ∧ r.urgent = true ∧
      ∀ x ∈ s.store, s.eligible x = true → x.urgent = true → r.draw ≤ x.draw := by
  have hpass := List.find?_some hr
  obtain ⟨hurgent, helig⟩ := Bool.and_eq_true_iff.mp hpass
  exact ⟨List.mem_of_find?_eq_some hr, helig, hurgent, fun x hx hxelig hxurgent =>
    key_le_of_find?_eq_some h.store_rising hr hx (by simp [hxelig, hxurgent])⟩

theorem State.urgentChoice_eq_none_iff (s : State) :
    s.urgentChoice = none ↔ ∀ x ∈ s.store, s.eligible x = true → x.urgent = false := by
  simp only [State.urgentChoice, List.find?_eq_none, Bool.and_eq_true, not_and', Bool.not_eq_true]

theorem State.plainChoice_eq_bind (s : State) :
    s.plainChoice =
      s.topLevel.bind fun L => ((streamsAfter (cell s.issue.ptr L)).find? (s.candidateAt L)).bind s.candidate := by
  unfold State.plainChoice
  cases s.topLevel with
  | none => rfl
  | some L =>
    simp only [Option.bind_some]
    cases (streamsAfter (cell s.issue.ptr L)).find? (s.candidateAt L) <;> rfl

theorem State.plainChoice_eq_some_iff (s : State) (r : StoreRec) :
    s.plainChoice = some r ↔
      ∃ L n, s.topLevel = some L ∧ (streamsAfter (cell s.issue.ptr L)).find? (s.candidateAt L) = some n ∧
        s.candidate n = some r := by
  simp only [State.plainChoice_eq_bind, Option.bind_eq_some_iff, exists_and_left]

/-- With a candidate at some level, the searches for the level, the stream and its candidate all find one. -/
theorem State.exists_plainChoice_of_candidateAt {s : State} {L : Fin 8} {n : StreamId}
    (hn : s.candidateAt L n = true) : ∃ r, s.plainChoice = some r := by
  obtain ⟨M, hM⟩ : ∃ M, s.topLevel = some M :=
    Option.isSome_iff_exists.mp <| List.find?_isSome.mpr ⟨L, mem_levelsDown L, (s.any_candidateAt_iff L).mpr ⟨n, hn⟩⟩
  obtain ⟨m, hm⟩ := State.exists_candidateAt_topLevel hM
  obtain ⟨k, hk⟩ : ∃ k, (streamsAfter (cell s.issue.ptr M)).find? (s.candidateAt M) = some k :=
    Option.isSome_iff_exists.mp <| List.find?_isSome.mpr ⟨m, mem_streamsAfter _ m, hm⟩
  obtain ⟨⟨r, hr⟩, -⟩ := (s.candidateAt_iff M k).mp (List.find?_some hk)
  exact ⟨r, (s.plainChoice_eq_some_iff r).mpr ⟨M, k, hM, hk, hr⟩⟩

/-- The plain choice is a candidate; every other one has a lower level, or the same level and a stream no nearer to the
one after that level's pointer. -/
theorem State.StoreMatches.of_plainChoice_eq_some {s : State} (h : s.StoreMatches) {r : StoreRec}
    (hr : s.plainChoice = some r) :
    r ∈ s.store ∧ s.eligible r = true ∧
      ∀ x ∈ s.store, s.eligible x = true →
        (s.stream x.stream).live.priority < (s.stream r.stream).live.priority ∨
        ((s.stream x.stream).live.priority = (s.stream r.stream).live.priority ∧
         let p := cell s.issue.ptr (s.stream r.stream).live.priority
         (r.stream.val + 15 - p.val) % 16 ≤ (x.stream.val + 15 - p.val) % 16) := by
  obtain ⟨L, n, htop, hfirst, hcand⟩ := (s.plainChoice_eq_some_iff r).mp hr
  obtain ⟨hmem, helig, rfl⟩ := h.candidate_eq_some_iff.mp hcand
  obtain ⟨-, rfl⟩ := (s.candidateAt_iff _ _).mp (List.find?_some hfirst)
  refine ⟨hmem, helig, fun x hx hxelig => ?_⟩
  have hat := h.candidateAt_of_eligible hx hxelig
  rcases (State.le_topLevel htop hat).lt_or_eq with hlt | heq
  · exact .inl hlt
  · rw [heq] at hat
    exact .inr ⟨heq, key_le_of_find?_eq_some (streamsAfter_rising _) hfirst (mem_streamsAfter _ _) hat⟩

/-! ### The arbiter's choice (R75, R76) -/

/-- The arbiter takes the urgent choice first and the plain one where there is none. -/
theorem State.grantChoice_eq_or (s : State) : s.grantChoice = s.urgentChoice.or s.plainChoice := by
  unfold State.grantChoice
  cases s.urgentChoice <;> rfl

/-- A choice comes from the urgent search, or from the plain one when no candidate is urgent. -/
theorem State.grantChoice_eq_some_iff (s : State) (r : StoreRec) :
    s.grantChoice = some r ↔
      s.urgentChoice = some r ∨
      ((∀ x ∈ s.store, s.eligible x = true → x.urgent = false) ∧ s.plainChoice = some r) := by
  rw [s.grantChoice_eq_or, Option.or_eq_some_iff, s.urgentChoice_eq_none_iff]

theorem State.StoreMatches.eligible_of_grantChoice {s : State} (h : s.StoreMatches) {r : StoreRec}
    (hr : s.grantChoice = some r) : r ∈ s.store ∧ s.eligible r = true := by
  rcases (s.grantChoice_eq_some_iff r).mp hr with hurgent | ⟨-, hplain⟩
  · obtain ⟨hmem, helig, -⟩ := h.of_urgentChoice_eq_some hurgent
    exact ⟨hmem, helig⟩
  · obtain ⟨hmem, helig, -⟩ := h.of_plainChoice_eq_some hplain
    exact ⟨hmem, helig⟩

/-- There is no choice exactly when no record is eligible. -/
theorem State.StoreMatches.grantChoice_eq_none_iff {s : State} (h : s.StoreMatches) :
    s.grantChoice = none ↔ ∀ x ∈ s.store, s.eligible x = false := by
  constructor
  · intro hnone x hx
    rw [s.grantChoice_eq_or, Option.or_eq_none_iff] at hnone
    refine Bool.eq_false_iff.mpr fun helig => ?_
    obtain ⟨r, hr⟩ := State.exists_plainChoice_of_candidateAt (h.candidateAt_of_eligible hx helig)
    exact absurd (hr.symm.trans hnone.2) (Option.some_ne_none r)
  · intro hall
    refine Option.eq_none_iff_forall_ne_some.mpr fun r hr => ?_
    obtain ⟨hmem, helig⟩ := h.eligible_of_grantChoice hr
    exact absurd helig (Bool.eq_false_iff.mp (hall r hmem))

end Sys2Proof.Machine

namespace Sys2Proof.Proofs

open Sys2Proof Sys2Proof.Machine

/-- Settles O10: R75 and R76, by which of the two searches the choice comes from. -/
theorem arbiterChoice : Obligations.ArbiterChoice := by
  intro s h
  refine ⟨fun r hr => ?_, h.grantChoice_eq_none_iff⟩
  rcases (s.grantChoice_eq_some_iff r).mp hr with hurgentChoice | ⟨hnoUrgent, hplainChoice⟩
  · obtain ⟨hmem, helig, hurgent, holdest⟩ := h.of_urgentChoice_eq_some hurgentChoice
    exact ⟨hmem, helig, .inl ⟨hurgent, holdest⟩⟩
  · obtain ⟨hmem, helig, hfirst⟩ := h.of_plainChoice_eq_some hplainChoice
    exact ⟨hmem, helig, .inr ⟨hnoUrgent, hfirst⟩⟩

end Sys2Proof.Proofs
end

section
/-! What an event can do to the state, said once: the parts of its effect, each a Move, and every command but COLD_RESET
as a sequence of them. A law that every Move keeps is kept by every step. -/

namespace Sys2Proof.Machine

/-! ### The rows as events -/

theorem exec_requestOffer (r : Request) (s : State) :
    exec (.requestOffer r) s =
      if s.inReset then .next (s.present r) else happen s (fun e => e.map (fun s => s.present r)) := rfl
theorem exec_offerWithdrawn (c : Channel) (s : State) :
    exec (.offerWithdrawn c) s =
      if s.inReset then .next (s.withdraw c) else happen s (fun e => e.map (fun s => s.withdraw c)) := rfl
theorem exec_requestTake (s : State) : exec .requestTake s = happen s Ev.takeIfAble := rfl
theorem exec_grant (s : State) : exec .grant s = happen s Ev.grant := rfl
theorem exec_issueTake (s : State) : exec .issueTake s = happen s (fun e => e.map State.issueTake) := rfl
theorem exec_responseOffer (r : Response) (s : State) :
    exec (.responseOffer r) s =
      if s.inReset then .next (s.setDownResp (some r))
      else happen s (fun e => e.map (fun s => s.setDownResp (some r))) := rfl
theorem exec_answerFill (s : State) : exec .answerFill s = happen s Ev.fill := rfl
theorem exec_answerTake (s : State) :
    exec .answerTake s = happen s (fun e => e.map (fun s => s.setAnswer { s.answer with stage := none })) := rfl
theorem exec_tapTick (k : Tap) (s : State) : exec (.tapTick k) s = happen s (fun e => e.tapTick k) := rfl
theorem exec_cycleEdge (pin : CyclePin) (s : State) :
    exec (.cycleEdge pin) s = happen s (fun e => e.cycleEdge pin) := rfl
theorem exec_frameStart (t : TimerId) (cause : FrameCause) (s : State) :
    exec (.frameStart t cause) s = happen s (fun e => e.frameStartBy t cause) := rfl
theorem exec_frameStartDelivery (t : TimerId) (n : StreamId) (s : State) :
    exec (.frameStartDelivery t n) s = happen s (fun e => e.delivery t n) := rfl
theorem exec_cascadeTick (t : TimerId) (s : State) :
    exec (.cascadeTick t) s = happen s (fun e => e.cascadeTick t) := rfl
theorem exec_ageTick (s : State) : exec .ageTick s = happen s Ev.ageTickNext := rfl
theorem exec_forceExpiry (draw : Nat) (s : State) :
    exec (.forceExpiry draw) s = happen s (fun e => e.expireOne draw .force) := rfl
theorem exec_dropExpiry (draw : Nat) (s : State) :
    exec (.dropExpiry draw) s = happen s (fun e => e.expireOne draw .drop) := rfl
theorem exec_presentation (s : State) : exec .presentation s = happen s Ev.presentation := rfl
theorem exec_evackRise (s : State) : exec .evackRise s = happen s Ev.evackRise := rfl
theorem exec_evackFall (s : State) : exec .evackFall s = happen s Ev.evackFall := rfl
theorem exec_handshakeTimeout (s : State) : exec .handshakeTimeout s = happen s Ev.handshakeTimeout := rfl
theorem exec_wrstnFall (s : State) : exec .wrstnFall s = askReset s Ev.wrstnFall := rfl
theorem exec_drainTimeout (s : State) : exec .drainTimeout s = happen s Ev.drainTimeoutIfDue := rfl
theorem exec_warmResetCompletion (s : State) : exec .warmResetCompletion s = event s Ev.close := rfl
theorem exec_coldReset (s : State) : exec .coldReset s = .next s.coldReset := rfl
theorem exec_coldResetRelease (s : State) :
    exec .coldResetRelease s = if s.inReset then .next (Ev.release { st := s, jobs := [] }).close else .next s := rfl
theorem exec_spiFrameStart (s : State) :
    exec .spiFrameStart s = if s.inReset then .next (s.select true) else happen s Ev.frameBegins := rfl
theorem exec_unknownOperation (h : Header) (s : State) :
    exec (.unknownOperation h) s = happen s (fun e => e.header h) := rfl
theorem exec_spiFrameEnd (cut : FrameCut) (s : State) :
    exec (.spiFrameEnd cut) s =
      if s.inReset then .next (s.select false) else happen s (fun e => e.frameEnds cut) := rfl
theorem exec_unmappedRead (a : WordAddr) (s : State) :
    exec (.unmappedRead a) s = happen s (fun e => e.readWord a) := rfl
theorem exec_registerWrite (a : WordAddr) (v : Word) (s : State) :
    exec (.registerWrite a v) s =
      if a = commandAddr then happenCommand (decodeCommand v) s (fun e => e.word a (fun e => e.wordAtAddr a v))
      else happen s (fun e => e.word a (fun e => e.wordAtAddr a v)) := rfl

/-- The row of a writable register is a word at the register's address that writes it (R182, R186). -/
theorem exec_regRow (r : Reg) (v : Word) (s : State) :
    exec (r.row v) s = happen s (fun e => e.word r.addr (fun e => e.writeReg r v)) := by
  cases r <;> rfl

/-- Both rows of a cause register are one write (log 14). -/
theorem exec_causeWriteDirect (x : NoticeId) (v : Word) (s : State) :
    exec (.causeWriteDirect x v) s = exec (.causeClear x v) s := rfl

theorem exec_unknownCommand (w : Word) (s : State) :
    exec (.unknownCommand w) s =
      happenCommand (decodeCommand w) s (fun e => e.word commandAddr (fun e => e.command (decodeCommand w))) := rfl
theorem exec_timerCmdUnknownOperation (mask : TimerMask) (op : BitVec 3) (s : State) :
    exec (.timerCmdUnknownOperation mask op) s =
      happenCommand (.timerCmd mask op) s (fun e => e.word commandAddr (fun e => e.command (.timerCmd mask op))) := rfl

/-- A word whose code names no command spells an unknown one (R187). -/
theorem decodeCommand_unknown {w : Word} (h : commandCodeNamed (w.extractLsb' 24 8) = false) :
    decodeCommand w = .unknown w := by
  have hcode : ¬ (1 ≤ (w.extractLsb' 24 8).toNat ∧ (w.extractLsb' 24 8).toNat ≤ 10) := by
    simpa [commandCodeNamed] using h
  unfold decodeCommand
  dsimp only
  split
  any_goals omega
  rfl

/-- The row of a command is the command's word at the command register (12.4, R187). -/
theorem exec_commandRow {c : Command} (h : c.wellFormed = true) (s : State) :
    exec c.row s = happenCommand c s (fun e => e.word commandAddr (fun e => e.command c)) := by
  cases c with
  | timerCmd m op =>
    have hop : op = 1 ∨ op = 2 ∨ op = 3 ∨ op = 4 ∨ op = 0 ∨ op = 5 ∨ op = 6 ∨ op = 7 := by
      clear h
      revert op
      decide
    rcases hop with rfl | rfl | rfl | rfl | rfl | rfl | rfl | rfl <;> rfl
  | unknown w =>
    have hw : decodeCommand w = .unknown w := decodeCommand_unknown (by simpa [Command.wellFormed] using h)
    show exec (.unknownCommand w) s = _
    rw [exec_unknownCommand, hw]
  | _ => rfl

/-! ### The parts of an event -/

/-- What one part of an event can do at a stream record, its issue count apart (R15, R17, R19, R25, R26, R28, R29). -/
inductive StreamMove : Stream → Stream → Prop
  | counted (st : Stream) (mode : StreamMode) (noted : Bool) (counters : Counters) :
      StreamMove st { st with mode := mode, noted := noted, counters := counters }
  | applied (st : Stream) : StreamMove st st.apply
  | discarded (st : Stream) : StreamMove st st.discard
  | replenished (st : Stream) : StreamMove st st.replenish
  | written (st : Stream) (p : Param) (v : Nat) (q : Params) (h : st.pend.write p v = some q) :
      StreamMove st { st with pend := q, pendingValid := true }

/-- What one part of an event can do at timer t (R124, R127, R131, R133, R134). -/
inductive TimerMove (t : TimerId) : Timer → Timer → Prop
  | state (x : Timer) (v : TimerState) : TimerMove t x { x with state := v }
  | counted (x : Timer) (h : x.count + 1 ≠ x.frameLength) : TimerMove t x { x with count := x.count + 1 }
  | frameStart (x : Timer) : TimerMove t x x.frameStart
  | length (x : Timer) (l : Nat) (h : 1 ≤ l ∧ l ≤ 65535) :
      TimerMove t x { x with pendingLength := l, pendingValid := true }
  | clock (x : Timer) (c : ClockSource) (h : t = 0 → c ≠ .cascade) : TimerMove t x { x with clock := c }
  | sync (x : Timer) (m : SyncMode) : TimerMove t x { x with sync := m }

/-- What is handed to the notice unit is an age tick, or a cause of the source at which it occurs (R139). -/
def NoticeJob.Proper : NoticeJob → Prop
  | .occur o => ofSource o.source o.cause.bit
  | .ageTick => True

/-- What one part of an event can do at the notice unit (09). -/
inductive NoticeMove : Notices → Notices → Prop
  | taken (nt : Notices) (jobs : List NoticeJob) (h : ∀ j ∈ jobs, j.Proper) : NoticeMove nt (nt.runAll jobs)
  | presented (nt : Notices) : NoticeMove nt nt.present
  | acknowledged (nt : Notices) (h : nt.port = .presenting) : NoticeMove nt nt.acknowledge
  | evackFell (nt : Notices) : NoticeMove nt nt.evackFall
  | written (nt : Notices) (f : NoticeSetting) (v : Nat) (nt' : Notices) (h : nt.write f v = some nt') :
      NoticeMove nt nt'
  | causesWritten (nt : Notices) (x : NoticeId) (v : Word) : NoticeMove nt (nt.writeCauses x v)
  | limit (nt : Notices) (l : Nat) : NoticeMove nt { nt with limit := l }

/-- The state after the memory answer of entry m is in the stage, before its stream's record follows (R91). -/
def State.memoryAnswered (s : State) (a : Answer) (m : OrderEntry) : State :=
  ((s.setAnswer { s.answer with stage := some a }).setOrder (removeEntry m.draw s.order)).setDownResp none

/-- One part of an event. The parts that no law speaks of change freely (other); every other part is one of the shared
operations, under the condition under which it takes place. The parts that only the end of an event or a take or a fill
brings about are not those of the event itself (fin). -/
inductive Move : Bool → State → State → Prop
  | other {fin : Bool} (s t : State)
      (h : t = { s with
        pending := t.pending, staging := t.staging, mgmt := t.mgmt, freeCount := t.freeCount, ageTap := t.ageTap
        timerTicks := t.timerTicks, ageDue := t.ageDue, deliveries := t.deliveries, cascades := t.cascades
        winSelect := t.winSelect }) : Move fin s t
  | offer {fin : Bool} (s : State) (o : Option Request) (l : Lacking) : Move fin s (s.setUp { s.up with offer := o, lacking := l })
  | response {fin : Bool} (s : State) (r : Option Response) : Move fin s (s.setDownResp r)
  | install {fin : Bool} (s : State) (i : Fin 32) (h : s.staging.pageBase ≤ s.staging.pageLimit) :
      Move fin s (s.setMatchList (updAt s.matchList i (fun _ => { valid := true, rule := s.staging })))
  | remove {fin : Bool} (s : State) (i : Fin 32) :
      Move fin s (s.setMatchList (updAt s.matchList i (fun m => { m with valid := false })))
  | streams {fin : Bool} (s : State) (v : Vector Stream 16) (h : ∀ n, StreamMove (s.stream n) (cell v n)) : Move fin s (s.setStreams v)
  | timers {fin : Bool} (s : State) (v : Vector Timer 4) (h : ∀ t, TimerMove t (s.timer t) (cell v t)) : Move fin s (s.setTimers v)
  | notices {fin : Bool} (s : State) (nt : Notices) (h : NoticeMove s.nt nt) : Move fin s (s.setNt nt)
  | mode {fin : Bool} (s : State) (m : DeviceMode) (h : s.dev.mode ≠ .draining) (hm : m ≠ .draining) :
      Move fin s (s.setDev { s.dev with mode := m })
  | drainCounted {fin : Bool} (s : State) (h : s.dev.mode = .draining) :
      Move fin s (s.setDev { s.dev with drainTimer := s.dev.drainNext })
  | drainLimit {fin : Bool} (s : State) (l : Nat) : Move fin s (s.setDev { s.dev with drainLimit := l })
  | refused (s : State) (r : Request) (stream : Option StreamId) (h : s.takeable = some r) :
      Move true s (s.takeOffer r stream (.made .refused false))
  | kept (s : State) (r : Request) (h : s.takeable = some r) (hk : s.admission r = .kept (s.classify r)) :
      Move true s (s.keep r (s.classify r))
  | discardedAbandoned {fin : Bool} (s : State) (r : Response) (m : OrderEntry) (h : s.oldestDue r.source = some m)
      (hm : m.state = .abandoned) : Move fin s (s.setOrder (removeEntry m.draw s.order))
  | discardedGhost {fin : Bool} (s : State) (r : Response) (m : OrderEntry) (status : LocalStatus) (ghost : Bool)
      (h : s.oldestDue r.source = some m) (hm : m.state = .made status ghost) :
      Move fin s (s.setOrder (setEntry m.draw (.made status false) s.order))
  | memoryAnswered (s : State) (r : Response) (m : OrderEntry) (a : Answer) (h : s.answerable = some (r, m))
      (hm : m.stream = none) : Move true s (s.memoryAnswered a m)
  | memoryAnsweredOf (s : State) (r : Response) (m : OrderEntry) (a : Answer) (n : StreamId) (ok : Bool)
      (h : s.answerable = some (r, m)) (hm : m.stream = some n) :
      Move true s ((s.memoryAnswered a m).onStream n (fun st => st.answered ok))
  | localAnswered (s : State) (f : OrderEntry) (h : s.localChoice = some f) : Move true s (s.localAnswer f)
  | answerTaken (s : State) : Move true s (s.setAnswer { s.answer with stage := none })
  | granted {fin : Bool} (s : State) (r : StoreRec) (hs : s.issue.stage = none) (h : s.grantChoice = some r) : Move fin s (s.grantTo r)
  | issueTaken {fin : Bool} (s : State) : Move fin s s.issueTake
  | aged {fin : Bool} (e : Ev) (sel : StoreRec → Bool) : Move fin e.st (e.ageRecords sel).st
  | drainTimedOut {fin : Bool} (e : Ev) (h : e.st.dev.mode = .draining) : Move fin e.st e.drainTimeout.st
  | warmStarted {fin : Bool} (s : State) : Move fin s s.warmStart
  | warmCompleted (s : State) (h : s.drained = true) : Move true s s.warmComplete
  | released (s : State) : Move true s (s.setInReset false)

variable {fin : Bool}

/-- Parts of one or more events, one after the other. -/
abbrev Moves (fin : Bool) : State → State → Prop := Relation.ReflTransGen (Move fin)

theorem Move.moves {s t : State} (h : Move fin s t) : Moves fin s t := .single h

/-- What every part of an event keeps, a sequence of parts keeps. -/
theorem Moves.keep {P : State → Prop} (hP : ∀ s t, Move fin s t → P s → P t) {s t : State} (h : Moves fin s t) (hs : P s) :
    P t := by
  induction h with
  | refl => exact hs
  | tail _ hm ih => exact hP _ _ hm ih

/-! ### Stream records -/

theorem StreamMove.refl (st : Stream) : StreamMove st st := .counted st st.mode st.noted st.counters

/-- A marker set or clear is a move. -/
theorem StreamMove.marked (st : Stream) (b : Bool) : StreamMove st { st with noted := b } :=
  .counted st st.mode b st.counters

/-- New counters are a move. -/
theorem StreamMove.recounted (st : Stream) (c : Counters) : StreamMove st { st with counters := c } :=
  .counted st st.mode st.noted c

/-- A part of an event at one stream. -/
theorem onStream_move {s : State} {n : StreamId} {f : Stream → Stream} (h : StreamMove (s.stream n) (f (s.stream n))) :
    Move fin s (s.onStream n f) := by
  refine .streams s _ fun m => ?_
  rw [cell_updAt]
  split
  · next heq => subst heq; exact h
  · exact .refl _

/-- A part of an event at the selected streams. -/
theorem onStreams_move {s : State} {mask : StreamMask} {f : Stream → Stream} (h : ∀ st, StreamMove st (f st)) :
    Move fin s (s.onStreams mask f) := by
  refine .streams s _ fun m => ?_
  rw [cell_mapAll]
  split
  · exact h _
  · exact .refl _

/-! ### Timers -/

theorem TimerMove.refl (t : TimerId) (x : Timer) : TimerMove t x x := .state x x.state

/-- A part of an event at one timer. -/
theorem onTimer_move {s : State} {t : TimerId} {f : Timer → Timer} (h : TimerMove t (s.timer t) (f (s.timer t))) :
    Move fin s (s.onTimer t f) := by
  refine .timers s _ fun u => ?_
  rw [cell_updAt]
  split
  · next heq => subst heq; exact h
  · exact .refl _ _

/-- A part of an event at the selected timers. -/
theorem onTimers_move {s : State} {mask : TimerMask} {f : Timer → Timer} (h : ∀ t x, TimerMove t x (f x)) :
    Move fin s (s.onTimers mask f) := by
  refine .timers s _ fun u => ?_
  rw [cell_mapAll]
  split
  · exact h _ _
  · exact .refl _ _

theorem start_timerMove (t : TimerId) (x : Timer) : TimerMove t x x.start := by
  unfold Timer.start
  split
  · exact .state x _
  · exact .refl _ _
  · exact .refl _ _

/-! ### Events under way -/

/-- All that the event has raised are causes of their sources. -/
def Ev.Proper (e : Ev) : Prop := ∀ j ∈ e.jobs, j.Proper

/-- The event goes on from e to e' by parts of events, and raises causes at their own sources alone. -/
def Acts (fin : Bool) (e e' : Ev) : Prop := e.Proper → e'.Proper ∧ Moves fin e.st e'.st

theorem Acts.refl (e : Ev) : Acts fin e e := fun h => ⟨h, .refl⟩

theorem Acts.trans {a b c : Ev} (h : Acts fin a b) (k : Acts fin b c) : Acts fin a c := fun ha =>
  let ⟨hb, hab⟩ := h ha
  let ⟨hc, hbc⟩ := k hb
  ⟨hc, hab.trans hbc⟩

/-- Parts of events that raise nothing. -/
theorem Acts.of_moves {e e' : Ev} (h : Moves fin e.st e'.st) (hj : e'.jobs = e.jobs) : Acts fin e e' := fun he =>
  ⟨fun j hm => he j (hj ▸ hm), h⟩

/-- One part of an event that raises nothing. -/
theorem Acts.of_move {e e' : Ev} (h : Move fin e.st e'.st) (hj : e'.jobs = e.jobs) : Acts fin e e' := .of_moves h.moves hj

/-- One part of an event at the state. -/
theorem Acts.map {e : Ev} {f : State → State} (h : Move fin e.st (f e.st)) : Acts fin e (e.map f) := .of_move h rfl

/-- A part of an event that no law speaks of. -/
theorem Acts.other {e : Ev} {f : State → State}
    (h : f e.st = { e.st with
      pending := (f e.st).pending, staging := (f e.st).staging, mgmt := (f e.st).mgmt, freeCount := (f e.st).freeCount
      ageTap := (f e.st).ageTap, timerTicks := (f e.st).timerTicks, ageDue := (f e.st).ageDue
      deliveries := (f e.st).deliveries, cascades := (f e.st).cascades, winSelect := (f e.st).winSelect }) : Acts fin e (e.map f) := .of_move (.other _ _ h) rfl

/-- A cause raised at its own source. -/
theorem Acts.raise {x : NoticeId} {c : Cause} (h : ofSource x c.bit) (e : Ev) : Acts fin e (e.raise x c) := fun he =>
  ⟨fun j hm => (List.mem_append.mp hm).elim (he j) fun hj => by rw [List.mem_singleton.mp hj]; exact h, .refl⟩

/-- A fold of parts of an event. -/
theorem Acts.foldl {α : Type} {f : Ev → α → Ev} (hf : ∀ e a, Acts fin e (f e a)) (l : List α) (e : Ev) :
    Acts fin e (l.foldl f e) := by
  induction l generalizing e with
  | nil => exact .refl e
  | cons a l ih => exact (hf e a).trans (ih (f e a))

/-- Whether a cause is one of a source's, as a computation. -/
theorem ofSource_of_check {x : NoticeId} {cs : CauseSet} (h : (cs &&& ~~~causeMask x == 0) = true) : ofSource x cs :=
  beq_iff_eq.mp h

/-- A stream source has all five causes (R139). -/
theorem ofSource_stream (n : StreamId) (cs : CauseSet) : ofSource (streamSource n) cs := by
  have hmask : causeMask (streamSource n) = 31#5 := if_pos n.isLt
  rw [ofSource, hmask]
  revert cs
  decide

/-- WRAP and SYNC_MISSED are causes of a timer source (R139). -/
theorem ofSource_timer (t : TimerId) : ofSource (timerSource t) Cause.wrap.bit ∧
    ofSource (timerSource t) Cause.syncMissed.bit := by
  unfold ofSource
  revert t
  decide

/-! ### The end of an event -/

theorem discardResponse_acts (e : Ev) : Acts fin e e.discardResponse := by
  rcases discardResponse_cases e with h | ⟨r, -, -, h⟩ | ⟨r, m, -, hm, hs, h⟩ | ⟨r, m, status, ghost, -, hm, hs, h⟩ <;>
    rw [h]
  · exact .refl e
  · exact (Acts.map (f := (·.setDownResp none)) (.response _ _)).trans
      (.raise (x := 22) (c := .stray) (ofSource_of_check rfl) _)
  · exact .of_moves ((Move.discardedAbandoned _ r m hm hs).moves.tail (.response _ none)) rfl
  · exact .of_moves ((Move.discardedGhost _ r m status ghost hm hs).moves.tail (.response _ none)) rfl

theorem fill_acts (e : Ev) : Acts true e e.fill := by
  rcases fill_cases e with h | ⟨r, m, -, ha, h⟩ | ⟨f, -, -, hl, h⟩ <;> rw [h]
  · exact .refl e
  · obtain ⟨a, -, ⟨hn, h⟩ | ⟨n, jobs, hn, h, hj⟩⟩ := memoryAnswer_cases e r m <;> rw [h]
    · exact Acts.map (f := fun s => s.memoryAnswered a m) (.memoryAnswered _ r m a ha hn)
    · have hmove : Acts true e (e.map fun s => (s.memoryAnswered a m).onStream n fun st => st.answered r.isOk) :=
        .map (.memoryAnsweredOf _ r m a n r.isOk ha hn)
      rcases hj with ⟨-, rfl⟩ | ⟨-, rfl⟩
      · rw [List.append_nil]
        exact hmove
      · exact hmove.trans (.raise (c := .memerr) (ofSource_stream n _) _)
  · exact .map (.localAnswered _ f hl)

theorem complete_acts (e : Ev) : Acts true e e.complete := by
  rcases complete_cases e with ⟨-, h⟩ | ⟨hd, h⟩ <;> rw [h]
  · exact .refl e
  · exact .map (.warmCompleted _ hd)

theorem take_acts (e : Ev) (r : Request) (h : e.st.takeable = some r) : Acts true e (e.take r) := by
  have hrefused : ∀ n, Acts true e (e.map fun s => (s.takeOffer r (some n) (.made .refused false)).onStream n Stream.refused) :=
    fun n => .of_moves ((Move.refused _ r (some n) h).moves.tail (onStream_move (.recounted _ _))) rfl
  unfold Ev.take
  rcases admission_cases e.st r with ⟨ha, -⟩ | ⟨ha, -⟩ | ⟨ha, -⟩ | ⟨ha, -⟩ <;> simp only [ha]
  · exact (Acts.map (.refused _ r none h)).trans (.raise (x := 22) (c := .malformed) (ofSource_of_check rfl) _)
  · exact (hrefused _).trans (.raise (ofSource_stream _ _) _)
  · have hraised := (hrefused (e.st.classify r)).trans (.raise (c := .refused) (ofSource_stream (e.st.classify r) _) _)
    split
    · have hmark : ∀ u : Ev, Acts true u (u.map fun s => s.onStream (e.st.classify r) fun st => { st with noted := true }) :=
        fun u => .of_move (onStream_move (.marked _ true)) rfl
      exact (hraised.trans (hmark _)).trans (.raise (ofSource_stream _ _) _)
    · exact hraised
  · split
    · exact .map (.kept _ r h ha)
    · exact .of_moves ((Move.kept _ r h ha).moves.tail (onStream_move (.recounted _ _))) rfl

theorem takeIfAble_acts (e : Ev) : Acts true e e.takeIfAble := by
  rcases takeIfAble_cases e with ⟨-, h⟩ | ⟨r, hr, h⟩ <;> rw [h]
  · exact .refl e
  · exact take_acts e r hr

theorem brings_acts (e : Ev) : Acts true e e.brings :=
  (((fill_acts e).trans (complete_acts _)).trans (takeIfAble_acts _)).trans (fill_acts _)

theorem noteShortfalls_acts (e : Ev) : Acts fin e e.noteShortfalls := by
  refine fun he => ⟨fun j hj => ?_, (Move.streams _ _ fun n => ?_).moves⟩
  · rw [noteShortfalls_jobs, State.creditNotices] at hj
    rcases List.mem_append.mp hj with hj | hj
    · exact he j hj
    · obtain ⟨n, -, rfl⟩ := List.mem_map.mp hj
      exact ofSource_stream n _
  · rw [cell_mapAll]
    split
    · exact .marked _ true
    · exact .refl _

/-- What lacks on UP is a cause of the STALL source (R139). -/
theorem stallNotices_proper (s : State) : ∀ j ∈ s.stallNotices, j.Proper := by
  intro j hj
  have hcauses : j = .occur ⟨20, .orderLack⟩ ∨ j = .occur ⟨20, .storeLack⟩ ∨ j = .occur ⟨20, .dataLack⟩ := by
    unfold State.stallNotices at hj
    split_ifs at hj <;> simp at hj <;> tauto
  rcases hcauses with rfl | rfl | rfl <;> exact ofSource_of_check rfl

theorem noteStall_acts (e : Ev) : Acts fin e e.noteStall := by
  refine fun he => ⟨fun j hj => ?_, ?_⟩
  · rw [noteStall_jobs] at hj
    exact (List.mem_append.mp hj).elim (he j) (stallNotices_proper _ j)
  · rw [noteStall_st]
    exact (Move.offer _ _ _).moves

theorem notify_moves {e : Ev} (he : e.Proper) : Moves fin e.st e.notify := by
  unfold Ev.notify
  split
  · exact (Move.notices _ _ (.taken _ _ fun j hj => he j ((freeOrder_perm _ _).mem_iff.mp hj))).moves.tail
      (.other _ _ rfl)
  · exact (Move.notices _ _ (.taken _ _ he)).moves

theorem judge_moves {e : Ev} (he : e.Proper) : Moves fin e.st e.judge :=
  let ⟨hp, hm⟩ := (noteShortfalls_acts e).trans (noteStall_acts _) he
  hm.trans (notify_moves hp)

theorem close_moves {e : Ev} (he : e.Proper) : Moves true e.st e.close :=
  let ⟨hp, hm⟩ := (discardResponse_acts e).trans (brings_acts _) he
  hm.trans (judge_moves hp)

theorem closeStart_moves {e : Ev} (he : e.Proper) : Moves true e.st e.closeStart :=
  let ⟨hp, hm⟩ := (((discardResponse_acts e).trans (fill_acts _)).trans (takeIfAble_acts _)).trans (fill_acts _) he
  hm.trans (judge_moves hp)

/-- An event with nothing raised yet. -/
theorem proper_nil (s : State) : Ev.Proper { st := s, jobs := [] } := fun _ hj => by cases hj

/-- An event that ends where another begins. -/
theorem closed_acts (e : Ev) : Acts true e { st := e.close, jobs := [] } := fun he => ⟨proper_nil _, close_moves he⟩

theorem follow_acts (e : Ev) : Acts true e e.follow := by
  unfold Ev.follow
  split
  · exact closed_acts e
  · exact .refl e

/-- The parts that are not those of the end of an event alone are parts of one. -/
theorem Move.weaken {s t : State} (h : Move fin s t) : Move true s t := by
  cases h with
  | other _ _ h => exact .other _ _ h
  | offer _ o l => exact .offer _ o l
  | response _ r => exact .response _ r
  | install _ i h => exact .install _ i h
  | remove _ i => exact .remove _ i
  | streams _ v h => exact .streams _ v h
  | timers _ v h => exact .timers _ v h
  | notices _ nt h => exact .notices _ nt h
  | mode _ m h hm => exact .mode _ m h hm
  | drainCounted _ h => exact .drainCounted _ h
  | drainLimit _ l => exact .drainLimit _ l
  | refused _ r stream h => exact .refused _ r stream h
  | kept _ r h hk => exact .kept _ r h hk
  | discardedAbandoned _ r m h hm => exact .discardedAbandoned _ r m h hm
  | discardedGhost _ r m status ghost h hm => exact .discardedGhost _ r m status ghost h hm
  | memoryAnswered _ r m a h hm => exact .memoryAnswered _ r m a h hm
  | memoryAnsweredOf _ r m a n ok h hm => exact .memoryAnsweredOf _ r m a n ok h hm
  | localAnswered _ f h => exact .localAnswered _ f h
  | answerTaken _ => exact .answerTaken _
  | granted _ r hs h => exact .granted _ r hs h
  | issueTaken _ => exact .issueTaken _
  | aged e sel => exact .aged e sel
  | drainTimedOut e h => exact .drainTimedOut e h
  | warmStarted _ => exact .warmStarted _
  | warmCompleted _ h => exact .warmCompleted _ h
  | released _ => exact .released _

theorem Acts.weaken {e e' : Ev} (h : Acts fin e e') : Acts true e e' := fun he =>
  let ⟨hp, hm⟩ := h he
  ⟨hp, Relation.ReflTransGen.mono (fun _ _ hmove => Move.weaken hmove) _ _ hm⟩

/-- A row is one event: parts of it, after the completion that was still to follow (log 31) unless the row asks for a
reset, and its end. While cold reset is in force the row is a part alone, and a row that is no event does nothing. -/
def OneEvent (fin : Bool) (s t : State) : Prop :=
  ((s.inReset = true ∨ t = s) ∧ Moves true s t) ∨
    ∃ e₀ e : Ev, (e₀ = ⟨s, []⟩ ∨ e₀ = Ev.follow ⟨s, []⟩) ∧ Acts fin e₀ e ∧ (t = e.close ∨ t = e.closeStart)

theorem OneEvent.idle (s : State) : OneEvent fin s s := .inl ⟨.inr rfl, .refl⟩

theorem OneEvent.moves {s t : State} (h : OneEvent fin s t) : Moves true s t := by
  rcases h with ⟨-, hm⟩ | ⟨e₀, e, h₀, he, ht⟩
  · exact hm
  · have hacts : Acts true ⟨s, []⟩ e := by
      rcases h₀ with rfl | rfl
      · exact he.weaken
      · exact (follow_acts _).trans he.weaken
    obtain ⟨hp, hm⟩ := hacts (proper_nil s)
    rcases ht with rfl | rfl
    · exact hm.trans (close_moves hp)
    · exact hm.trans (closeStart_moves hp)

theorem happen_oneEvent {f : Ev → Ev} {s t : State} (h : happen s f = .next t) (hf : ∀ e, Acts fin e (f e)) : OneEvent fin s t := by
  unfold happen event at h
  split at h <;> cases h
  · exact .idle _
  · exact .inr ⟨_, _, .inr rfl, hf _, .inl rfl⟩

theorem askReset_oneEvent {f : Ev → Ev} {s t : State} (h : askReset s f = .next t) (hf : ∀ e, Acts fin e (f e)) :
    OneEvent fin s t := by
  unfold askReset event at h
  split at h <;> cases h
  · exact .idle _
  · refine .inr ⟨_, f ⟨s, []⟩, .inl rfl, hf _, ?_⟩
    dsimp only
    split
    · exact .inl rfl
    · exact .inr rfl

/-! ### Timers and ticks (07, 08) -/

theorem frameStart_acts (e : Ev) (t : TimerId) (cause : FrameCause) : Acts fin e (e.frameStart t cause) := by
  obtain ⟨cascades, h⟩ := frameStart_cases e t cause
  have hstate : Moves fin e.st (((e.st.onTimer t Timer.frameStart).setDeliveries
      (e.st.deliveries ++ (List.finRange 16).map (fun n => (t, n)))).setCascades cascades) :=
    (onTimer_move (.frameStart _)).moves.tail (.other _ _ rfl)
  have hwrap := (Acts.of_moves (e := e) (e' := ⟨_, e.jobs⟩) hstate rfl).trans (.raise (ofSource_timer t).1 _)
  rw [h]
  split
  · exact hwrap.trans (.raise (ofSource_timer t).2 _)
  · rw [List.append_nil]
    exact hwrap

theorem tick_acts (e : Ev) (t : TimerId) : Acts fin e (e.tick t) := by
  rcases tick_cases e t with ⟨h, -⟩ | ⟨-, -, h⟩ | ⟨-, hc, h⟩ <;> rw [h]
  · exact .refl e
  · exact frameStart_acts e t .tick
  · exact .map (onTimer_move (.counted _ hc))

theorem syncEdge_acts (e : Ev) (t : TimerId) : Acts fin e (e.syncEdge t) := by
  rcases syncEdge_cases e t with ⟨h, -⟩ | ⟨-, h⟩ | ⟨-, h⟩ <;> rw [h]
  · exact .refl e
  · exact (Acts.map (onTimer_move (.state _ .running))).trans (frameStart_acts _ t .syncEdge)
  · exact frameStart_acts e t .syncEdge

theorem pinEdge_acts (e : Ev) (pin : CyclePin) (t : TimerId) : Acts fin e (e.pinEdge pin t) := by
  unfold Ev.pinEdge
  split
  · exact syncEdge_acts e t
  · split
    · exact tick_acts e t
    · exact .refl e

theorem tapAt_acts (k : Tap) (e : Ev) (t : TimerId) : Acts fin e (e.tapAt k t) := by
  unfold Ev.tapAt
  split
  · exact (Acts.other rfl).trans (tick_acts _ t)
  · exact .refl e

theorem takeTap_acts (e : Ev) (k : Tap) : Acts fin e (e.takeTap k) := .foldl (tapAt_acts k) _ e

/-- At the drain timeout the mode is DRAINING (R165). -/
theorem atTimeout_draining {d : DeviceControl} (h : d.atTimeout = true) : d.mode = .draining := by
  simp only [DeviceControl.atTimeout, Bool.and_eq_true, beq_iff_eq] at h
  exact h.1.1.1

theorem drainTimeout_acts (e : Ev) (h : e.st.dev.mode = .draining) : Acts fin e e.drainTimeout :=
  (Acts.map (Move.drainTimedOut e h)).trans (.raise (x := 23) (c := .drainTimeout) (ofSource_of_check rfl) _)

theorem drainTick_acts (e : Ev) : Acts fin e e.drainTick := by
  rcases drainTick_cases e with h | ⟨hd, h⟩ | ⟨-, hm, -, h⟩ <;> rw [h]
  · exact .refl e
  · exact drainTimeout_acts e (atTimeout_draining hd)
  · exact .map (.drainCounted _ hm)

theorem ageRecords_acts (e : Ev) (sel : StoreRec → Bool) : Acts fin e (e.ageRecords sel) := by
  refine fun he => ⟨fun j hj => ?_, (Move.aged e sel).moves⟩
  rcases List.mem_append.mp hj with hj | hj
  · exact he j hj
  · obtain ⟨r, -, rfl⟩ := List.mem_map.mp hj
    exact ofSource_stream r.stream _

/-- An age tick handed to the handshake timer. -/
theorem handed_acts (e : Ev) : Acts fin e { e with jobs := e.jobs ++ [.ageTick] } := fun he =>
  ⟨fun j hj => (List.mem_append.mp hj).elim (he j) fun hj => by rw [List.mem_singleton.mp hj]; trivial, .refl⟩

theorem takeAge_acts (e : Ev) : Acts fin e e.takeAge :=
  (((Acts.other (f := fun s => s.setAgeDue false) rfl).trans (ageRecords_acts _ _)).trans
    (drainTick_acts _)).trans (handed_acts _)

theorem settleTimer_acts (e : Ev) (t : TimerId) : Acts true e (e.settleTimer t) := by
  rcases settleTimer_cases e t with ⟨k, -, h⟩ | ⟨-, h⟩ <;> rw [h]
  · exact (takeTap_acts e k).trans (closed_acts _)
  · exact .refl e

theorem settleAge_acts (e : Ev) : Acts true e e.settleAge := by
  rcases settleAge_cases e with ⟨-, h⟩ | ⟨-, h⟩ <;> rw [h]
  · exact (takeAge_acts e).trans (closed_acts _)
  · exact .refl e

/-- The event goes on from e to e' by parts of events, and one REFCLK period begins on the way (R119). -/
def ActsOver (e e' : Ev) : Prop := ∃ a : Ev, Acts true e a ∧ Acts true (a.map State.nextPeriod) e'

theorem nextPeriod_acts (e : Ev) : ActsOver e e.nextPeriod := by
  refine ⟨_, (Acts.foldl settleTimer_acts (List.finRange 4) e).trans (settleAge_acts _), ?_⟩
  unfold Ev.nextPeriod Ev.map
  rw [beginPeriod_eq]
  exact .refl _

theorem ActsOver.trans {a b c : Ev} (h : ActsOver a b) (k : Acts true b c) : ActsOver a c :=
  let ⟨x, hax, hxb⟩ := h
  ⟨x, hax, hxb.trans k⟩

theorem Acts.trans_over {a b c : Ev} (h : Acts true a b) (k : ActsOver b c) : ActsOver a c :=
  let ⟨x, hbx, hxc⟩ := k
  ⟨x, h.trans hbx, hxc⟩

/-- A tick of a tap begins a period exactly where it is none of the present one's and falls in the next (R119). -/
theorem tapTick_acts (k : Tap) (e : Ev) :
    (¬ e.st.beginsPeriod (.tapTick k) ∧ Acts true e (e.tapTick k)) ∨
    (e.st.beginsPeriod (.tapTick k) ∧ ActsOver e (e.tapTick k)) := by
  rcases tapTick_cases e k with ⟨⟨t, ht⟩, h⟩ | ⟨hn, hd, h⟩ | ⟨-, hd, h⟩ <;> rw [h]
  · refine .inl ⟨?_, takeTap_acts e k⟩
    rintro (⟨j, hj, hn, -⟩ | ⟨hj, -⟩) <;> cases hj
    exact hn t ht
  · exact .inr ⟨.inl ⟨k, rfl, hn, hd⟩, (nextPeriod_acts e).trans (takeTap_acts _ k)⟩
  · refine .inl ⟨?_, .refl e⟩
    rintro (⟨j, hj, -, hdue⟩ | ⟨hj, -⟩) <;> cases hj
    exact hd hdue

/-- So does an age tick (R106, R119). -/
theorem ageTickNext_acts (e : Ev) :
    (¬ e.st.beginsPeriod .ageTick ∧ Acts true e e.ageTickNext) ∨ (e.st.beginsPeriod .ageTick ∧ ActsOver e e.ageTickNext) := by
  rcases ageTickNext_cases e with ⟨ho, h⟩ | ⟨hn, hd, h⟩ | ⟨-, hd, h⟩ <;> rw [h]
  · refine .inl ⟨?_, takeAge_acts e⟩
    rintro (⟨j, hj, -⟩ | ⟨-, hn, -⟩)
    · cases hj
    · exact hn ho
  · exact .inr ⟨.inr ⟨rfl, hn, hd⟩, (nextPeriod_acts e).trans (takeAge_acts _)⟩
  · refine .inl ⟨?_, .refl e⟩
    rintro (⟨j, hj, -⟩ | ⟨-, -, hdue⟩)
    · cases hj
    · exact hd hdue

theorem frameStartBy_acts (t : TimerId) (cause : FrameCause) (e : Ev) : Acts fin e (e.frameStartBy t cause) := by
  unfold Ev.frameStartBy
  cases cause with
  | tick =>
    dsimp only
    split
    · exact frameStart_acts e t .tick
    · exact .refl e
  | syncEdge =>
    dsimp only
    split
    · exact .refl e
    · exact syncEdge_acts e t
  | restart => exact frameStart_acts e t .restart

/-- The frame start of a stream is an apply, a replenishment and a cleared marker, one after the other. -/
theorem frameStart_stream_moves (s : State) (n : StreamId) : Moves fin s (s.onStream n Stream.frameStart) := by
  have h1 : Move fin s (s.onStream n Stream.apply) := onStream_move (.applied _)
  have h2 : Move fin (s.onStream n Stream.apply) ((s.onStream n Stream.apply).onStream n Stream.replenish) :=
    onStream_move (.replenished _)
  have h3 := h1.moves.tail h2 |>.tail (onStream_move (n := n) (f := fun st => { st with noted := false }) (.marked _ false))
  rw [onStream_onStream, onStream_onStream] at h3
  exact h3

theorem delivery_acts (t : TimerId) (n : StreamId) (e : Ev) : Acts fin e (e.delivery t n) := by
  unfold Ev.delivery
  split
  · refine .of_moves ?_ rfl
    have h1 : Move fin e.st (e.st.setDeliveries (e.st.deliveries.erase (t, n))) := .other _ _ rfl
    simp only [Ev.map, State.deliver]
    split
    · exact h1.moves.trans (frameStart_stream_moves _ n)
    · exact h1.moves
  · exact .refl e

theorem cascadeTick_acts (t : TimerId) (e : Ev) : Acts fin e (e.cascadeTick t) := by
  unfold Ev.cascadeTick
  split
  · have htaken : Acts fin e (e.map fun s => s.setCascades (updAt s.cascades t (· - 1))) := .other rfl
    dsimp only
    split
    · exact htaken.trans (tick_acts _ t)
    · exact htaken
  · exact .refl e

theorem expireOne_acts (draw : Nat) (a : AgeAction) (e : Ev) : Acts fin e (e.expireOne draw a) := by
  unfold Ev.expireOne
  split
  · exact ageRecords_acts e _
  · exact .refl e

/-! ### The management port (12) -/

theorem word_acts_at {f : Ev → Ev} (a : WordAddr) (hf : ∀ e, Acts fin e (f e)) (e : Ev) : Acts fin e (e.word a f) := by
  rcases word_cases e a f with ⟨-, h⟩ | ⟨-, h⟩ <;> rw [h]
  · exact .refl e
  · exact (hf e).trans (.other rfl)

theorem record_acts (err : MgmtError) (e : Ev) : Acts fin e (e.record err) := .other rfl

theorem result_acts (r : CmdResult) (e : Ev) : Acts fin e (e.result r) := by
  rw [result_rest]
  exact .other rfl

/-- A part of an event, with a command result. -/
theorem map_result_acts {e : Ev} {f : State → State} {r : CmdResult} (h : Move fin e.st (f e.st)) :
    Acts fin e ((e.map f).result r) :=
  (Acts.of_move (e' := e.map f) h rfl).trans (result_acts r _)

theorem writeField_acts {α : Type} {e : Ev} {v : Option α} {f : α → State → State}
    (h : ∀ x, v = some x → Move fin e.st (f x e.st)) : Acts fin e (e.writeField v f) := by
  rcases writeField_cases e v f with ⟨x, hx, he⟩ | ⟨-, he⟩ <;> rw [he]
  · exact .map (h x hx)
  · exact record_acts _ e

theorem writeStopped_acts {α : Type} {e : Ev} {t : TimerId} {v : Option α} {f : α → Timer → Timer}
    (h : ∀ x, v = some x → TimerMove t (e.st.timer t) (f x (e.st.timer t))) : Acts fin e (e.writeStopped t v f) := by
  unfold Ev.writeStopped
  cases v with
  | none => exact record_acts _ e
  | some x =>
    dsimp only
    split
    · exact .map (onTimer_move (h x rfl))
    · exact record_acts _ e

theorem numFromOne_some {hi v l : Nat} (h : numFromOne hi v = some l) : 1 ≤ l ∧ l ≤ hi := by
  unfold numFromOne at h
  split at h
  · cases h; assumption
  · cases h

/-- Timer 0 takes no CASCADE (R134). -/
theorem clockSourceOf_first {t : TimerId} {v : Nat} {c : ClockSource} (h : clockSourceOf t v = some c) (ht : t = 0) :
    c ≠ .cascade := by
  rintro rfl
  unfold clockSourceOf at h
  split_ifs at h with h16 h17 h18 hc <;> simp_all

theorem writeReg_acts (r : Reg) (v : Word) (e : Ev) : Acts fin e (e.writeReg r v) := by
  cases r with
  | staging f => exact writeField_acts fun _ _ => .other _ _ rfl
  | pending n p => exact writeField_acts fun q hq => onStream_move (.written _ p v.toNat q hq)
  | frameLength t => exact writeField_acts fun l hl => onTimer_move (.length _ l (numFromOne_some hl))
  | clockSource t => exact writeStopped_acts fun c hc => .clock _ c (clockSourceOf_first hc)
  | syncMode t => exact writeStopped_acts fun m _ => .sync _ m
  | winSelect w => exact writeField_acts fun _ _ => .other _ _ rfl
  | notice f => exact writeField_acts fun nt hn => .notices _ nt (.written _ f v.toNat nt hn)
  | cause x => exact .map (.notices _ _ (.causesWritten _ x v))
  | handshakeLimit => exact writeField_acts fun l _ => .notices _ _ (.limit _ l)
  | ageTap => exact writeField_acts fun _ _ => .other _ _ rfl
  | drainLimit => exact writeField_acts fun l _ => .drainLimit _ l

theorem restart_acts (mask : TimerMask) (e : Ev) : Acts fin e (e.restart mask) :=
  .foldl (fun e t => frameStart_acts e t .restart) _ e

theorem install_acts (i : Fin 32) (e : Ev) : Acts fin e (e.install i) := by
  unfold Ev.install
  split
  · next h => exact map_result_acts (.install _ i h)
  · exact (result_acts _ e).trans (.raise (ofSource_of_check rfl) _)

theorem applyNow_acts (mask : StreamMask) (e : Ev) : Acts fin e (e.applyNow mask) := by
  unfold Ev.applyNow
  split
  · exact result_acts _ e
  · exact map_result_acts (onStreams_move .applied)

theorem setMode_acts (code : BitVec 2) (e : Ev) : Acts fin e (e.setMode code) := by
  unfold Ev.setMode
  split
  · exact result_acts _ e
  · next hm =>
    split
    · exact map_result_acts (.mode _ _ hm (by decide))
    · exact map_result_acts (.mode _ _ hm (by decide))
    · exact result_acts _ e

theorem warmReset_acts (e : Ev) : Acts fin e e.warmReset := by
  unfold Ev.warmReset
  split
  · exact result_acts _ e
  · exact (result_acts _ e).trans (.map (.warmStarted _))

theorem snapshot_acts (n : StreamId) (clear : Bool) (e : Ev) : Acts fin e (e.snapshot n clear) := by
  have htaken : Acts fin e (e.map fun s => s.setMgmt { s.mgmt with snapshot := s.snapshotOf n }) := .other rfl
  unfold Ev.snapshot
  cases clear with
  | false => exact htaken.trans (result_acts _ _)
  | true =>
    have hcleared : ∀ u : Ev, Acts fin u (u.map fun s => s.onStream n fun st => { st with counters := Counters.zero }) :=
      fun u => .map (onStream_move (.recounted _ _))
    exact (htaken.trans (hcleared _)).trans (result_acts _ _)

theorem startTimers_acts (mask : TimerMask) (e : Ev) : Acts fin e (e.startTimers mask) :=
  map_result_acts (onTimers_move start_timerMove)

theorem timerCmd_acts (mask : TimerMask) (op : BitVec 3) (e : Ev) : Acts fin e (e.timerCmd mask op) := by
  unfold Ev.timerCmd
  split
  · exact startTimers_acts mask e
  · exact map_result_acts (onTimers_move fun _ x => .state x .stopped)
  · exact (restart_acts mask e).trans (result_acts _ _)
  · exact (restart_acts mask e).trans (startTimers_acts mask _)
  · exact result_acts _ e

theorem command_acts (c : Command) (e : Ev) : Acts fin e (e.command c) := by
  cases c with
  | install i => exact install_acts i e
  | remove i => exact map_result_acts (.remove _ i)
  | applyNow m => exact applyNow_acts m e
  | discardPending m => exact map_result_acts (onStreams_move .discarded)
  | streamOn m => exact map_result_acts (onStreams_move fun st => .counted st .on st.noted st.counters)
  | streamOff m => exact map_result_acts (onStreams_move fun st => .counted st .off st.noted st.counters)
  | timerCmd m op => exact timerCmd_acts m op e
  | setMode c => exact setMode_acts c e
  | warmReset => exact warmReset_acts e
  | snapshot n c => exact snapshot_acts n c e
  | unknown w => exact result_acts _ e

theorem wordAtAddr_acts (a : WordAddr) (v : Word) (e : Ev) : Acts fin e (e.wordAtAddr a v) := by
  unfold Ev.wordAtAddr
  split
  · exact writeReg_acts _ v e
  · exact command_acts _ e
  · exact record_acts _ e
  · exact record_acts _ e

theorem happenCommand_oneEvent {f : Ev → Ev} {c : Command} {s t : State} (h : happenCommand c s f = .next t)
    (hf : ∀ e, Acts fin e (f e)) : OneEvent fin s t := by
  unfold happenCommand at h
  split at h
  · exact askReset_oneEvent h hf
  · exact happen_oneEvent h hf

theorem header_acts (hd : Header) (e : Ev) : Acts fin e (e.header hd) := by
  rcases header_cases e hd with ⟨-, h⟩ | ⟨-, ⟨-, h⟩ | ⟨-, h⟩ | ⟨-, -, h⟩⟩ <;> rw [h]
  · exact .refl e
  · exact .other rfl
  · exact .other rfl
  · exact ((record_acts .frame e).trans (.raise (ofSource_of_check rfl) _)).trans (.other rfl)

theorem readWord_acts (a : WordAddr) (e : Ev) : Acts fin e (e.readWord a) := by
  rcases readWord_cases e a with ⟨-, -, h⟩ | ⟨-, ⟨w, -, h⟩ | ⟨-, h⟩⟩ <;> rw [h]
  · exact .refl e
  · exact .other rfl
  · exact (Acts.other rfl).trans (record_acts _ _)

theorem frameBegins_acts (e : Ev) : Acts fin e e.frameBegins := by
  unfold Ev.frameBegins
  split
  · exact .refl e
  · exact .other rfl

theorem frameEnds_acts (cut : FrameCut) (e : Ev) : Acts fin e (e.frameEnds cut) := by
  unfold Ev.frameEnds
  split
  · exact (record_acts _ e).trans (.other rfl)
  · exact .other rfl

/-! ### Every command -/

theorem present_move (s : State) (r : Request) : Move fin s (s.present r) := .offer s _ _

theorem withdraw_move (s : State) (c : Channel) : Move fin s (s.withdraw c) := by
  cases c with
  | upRequest => exact .offer s none Lacking.none
  | downResponse => exact .response s none

theorem evackRise_acts (e : Ev) : Acts fin e e.evackRise := by
  unfold Ev.evackRise
  split
  · next h => exact .map (.notices _ _ (.acknowledged _ h))
  · exact .raise (ofSource_of_check rfl) e
  · exact .refl e

theorem grant_acts (e : Ev) : Acts fin e e.grant := by
  rcases grant_cases e with ⟨h, -⟩ | ⟨r, hs, hg, h⟩ <;> rw [h]
  · exact .refl e
  · exact .map (.granted _ r hs hg)

theorem wrstnFall_acts (e : Ev) : Acts fin e e.wrstnFall := by
  unfold Ev.wrstnFall
  split
  · exact .refl e
  · exact .map (.warmStarted _)

theorem drainTimeoutIfDue_acts (e : Ev) : Acts fin e e.drainTimeoutIfDue := by
  unfold Ev.drainTimeoutIfDue
  split
  · next hd => exact drainTimeout_acts e (atTimeout_draining hd)
  · exact .refl e

theorem handshakeTimeout_acts (e : Ev) : Acts fin e e.handshakeTimeout := by
  unfold Ev.handshakeTimeout
  split
  · exact handed_acts e
  · exact .refl e

/-- Where the row is an event only while cold reset is not in force, and a part of one otherwise. -/
theorem ite_oneEvent {s t u : State} {o : Host.Outcome State Fault Refusal}
    (h : (if s.inReset = true then .next u else o) = .next t) (hu : Moves true s u) (ho : o = .next t → OneEvent fin s t) :
    OneEvent fin s t := by
  split at h
  · next hr => cases h; exact .inl ⟨.inl hr, hu⟩
  · exact ho h

theorem regRow_oneEvent (r : Reg) (v : Word) {s t : State} (h : exec (r.row v) s = .next t) : OneEvent fin s t := by
  rw [exec_regRow] at h
  exact happen_oneEvent h (word_acts_at _ (writeReg_acts r v))

theorem commandRow_oneEvent {c : Command} (hc : c.wellFormed = true) {s t : State} (h : exec c.row s = .next t) :
    OneEvent fin s t := by
  rw [exec_commandRow hc] at h
  exact happenCommand_oneEvent h (word_acts_at _ (command_acts c))

/-- The rows that are a take or a fill, or empty the answer stage. -/
def FillsOrTakes : Instr → Prop
  | .requestTake | .answerFill | .answerTake => True
  | _ => False

/-- Every command but COLD_RESET, the ticks and the takes and fills is one event, none of whose parts is a take or a fill. -/
theorem exec_oneEvent {c : Instr} {s t : State} (hc : c ≠ .coldReset) (hk : ∀ k, c ≠ .tapTick k) (ha : c ≠ .ageTick)
    (hn : ¬ FillsOrTakes c) (h : exec c s = .next t) : OneEvent false s t := by
  cases c with
  | requestOffer r =>
    rw [exec_requestOffer] at h
    exact ite_oneEvent h (present_move s r).moves fun h => happen_oneEvent h fun e => .map (present_move e.st r)
  | offerWithdrawn c =>
    rw [exec_offerWithdrawn] at h
    exact ite_oneEvent h (withdraw_move s c).moves fun h => happen_oneEvent h fun e => .map (withdraw_move e.st c)
  | requestTake => exact absurd trivial hn
  | grant => rw [exec_grant] at h; exact happen_oneEvent h grant_acts
  | issueTake => rw [exec_issueTake] at h; exact happen_oneEvent h (fun e => .map (Move.issueTaken e.st))
  | responseOffer r =>
    rw [exec_responseOffer] at h
    exact ite_oneEvent h (Move.response s _).moves fun h => happen_oneEvent h fun e => .map (Move.response e.st _)
  | answerFill => exact absurd trivial hn
  | answerTake => exact absurd trivial hn
  | tapTick k => exact absurd rfl (hk k)
  | cycleEdge pin => rw [exec_cycleEdge] at h; exact happen_oneEvent h (.foldl (fun e t => pinEdge_acts e pin t) _)
  | frameStart t cause => rw [exec_frameStart] at h; exact happen_oneEvent h (frameStartBy_acts t cause)
  | frameStartDelivery t n => rw [exec_frameStartDelivery] at h; exact happen_oneEvent h (delivery_acts t n)
  | cascadeTick t => rw [exec_cascadeTick] at h; exact happen_oneEvent h (cascadeTick_acts t)
  | ageTick => exact absurd rfl ha
  | forceExpiry draw => rw [exec_forceExpiry] at h; exact happen_oneEvent h (expireOne_acts draw .force)
  | dropExpiry draw => rw [exec_dropExpiry] at h; exact happen_oneEvent h (expireOne_acts draw .drop)
  | presentation => rw [exec_presentation] at h; exact happen_oneEvent h (fun e => .map (Move.notices e.st _ (.presented _)))
  | evackRise => rw [exec_evackRise] at h; exact happen_oneEvent h evackRise_acts
  | evackFall => rw [exec_evackFall] at h; exact happen_oneEvent h (fun e => .map (Move.notices e.st _ (.evackFell _)))
  | handshakeTimeout => rw [exec_handshakeTimeout] at h; exact happen_oneEvent h handshakeTimeout_acts
  | wrstnFall => rw [exec_wrstnFall] at h; exact askReset_oneEvent h wrstnFall_acts
  | drainTimeout => rw [exec_drainTimeout] at h; exact happen_oneEvent h drainTimeoutIfDue_acts
  | warmResetCompletion =>
    rw [exec_warmResetCompletion, event] at h
    exact ite_oneEvent h .refl fun h => by cases h; exact .inr ⟨⟨s, []⟩, ⟨s, []⟩, .inl rfl, .refl _, .inl rfl⟩
  | coldReset => exact absurd rfl hc
  | coldResetRelease =>
    rw [exec_coldResetRelease] at h
    exact ite_oneEvent h ((Move.released s).moves.trans (close_moves (e := Ev.release ⟨s, []⟩) (proper_nil _)))
      fun h => by cases h; exact .idle s
  | spiFrameStart =>
    rw [exec_spiFrameStart] at h
    exact ite_oneEvent h (Move.other _ _ rfl).moves fun h => happen_oneEvent h frameBegins_acts
  | unknownOperation hd => rw [exec_unknownOperation] at h; exact happen_oneEvent h (header_acts hd)
  | spiFrameEnd cut =>
    rw [exec_spiFrameEnd] at h
    exact ite_oneEvent h (Move.other _ _ rfl).moves fun h => happen_oneEvent h (frameEnds_acts cut)
  | unmappedRead a => rw [exec_unmappedRead] at h; exact happen_oneEvent h (readWord_acts a)
  | registerWrite a v =>
    rw [exec_registerWrite] at h
    split at h
    · exact happenCommand_oneEvent h (word_acts_at a (wordAtAddr_acts a v))
    · exact happen_oneEvent h (word_acts_at a (wordAtAddr_acts a v))
  | stagingWrite f v => exact regRow_oneEvent (.staging f) v h
  | pendingWrite n p v => exact regRow_oneEvent (.pending n p) v h
  | frameLengthWrite t v => exact regRow_oneEvent (.frameLength t) v h
  | clockSourceWrite t v => exact regRow_oneEvent (.clockSource t) v h
  | syncModeWrite t v => exact regRow_oneEvent (.syncMode t) v h
  | winSelectWrite w v => exact regRow_oneEvent (.winSelect w) v h
  | noticeConfigWrite f v => exact regRow_oneEvent (.notice f) v h
  | causeClear x v => exact regRow_oneEvent (.cause x) v h
  | causeWriteDirect x v => exact regRow_oneEvent (.cause x) v h
  | handshakeLimitWrite v => exact regRow_oneEvent .handshakeLimit v h
  | ageTapWrite v => exact regRow_oneEvent .ageTap v h
  | drainLimitWrite v => exact regRow_oneEvent .drainLimit v h
  | install i => exact commandRow_oneEvent (c := .install i) rfl h
  | remove i => exact commandRow_oneEvent (c := .remove i) rfl h
  | applyNow mask => exact commandRow_oneEvent (c := .applyNow mask) rfl h
  | discardPending mask => exact commandRow_oneEvent (c := .discardPending mask) rfl h
  | streamOn mask => exact commandRow_oneEvent (c := .streamOn mask) rfl h
  | streamOff mask => exact commandRow_oneEvent (c := .streamOff mask) rfl h
  | start mask => exact commandRow_oneEvent (c := .timerCmd mask 1) rfl h
  | stop mask => exact commandRow_oneEvent (c := .timerCmd mask 2) rfl h
  | restart mask => exact commandRow_oneEvent (c := .timerCmd mask 3) rfl h
  | startRestart mask => exact commandRow_oneEvent (c := .timerCmd mask 4) rfl h
  | setMode code => exact commandRow_oneEvent (c := .setMode code) rfl h
  | warmReset => exact commandRow_oneEvent (c := .warmReset) rfl h
  | snapshot n clear => exact commandRow_oneEvent (c := .snapshot n clear) rfl h
  | unknownCommand w => rw [exec_unknownCommand] at h; exact happenCommand_oneEvent h (word_acts_at _ (command_acts (decodeCommand w)))
  | timerCmdUnknownOperation mask op =>
    rw [exec_timerCmdUnknownOperation] at h
    exact happenCommand_oneEvent h (word_acts_at _ (command_acts (.timerCmd mask op)))

/-- Every command but COLD_RESET and the ticks is a sequence of parts of events. -/
theorem exec_moves_of_no_tick {c : Instr} {s t : State} (hc : c ≠ .coldReset) (hk : ∀ k, c ≠ .tapTick k)
    (ha : c ≠ .ageTick) (h : exec c s = .next t) : Moves true s t := by
  by_cases hn : FillsOrTakes c
  · cases c with
    | requestTake => rw [exec_requestTake] at h; exact (happen_oneEvent h takeIfAble_acts).moves
    | answerFill => rw [exec_answerFill] at h; exact (happen_oneEvent h fill_acts).moves
    | answerTake => rw [exec_answerTake] at h; exact (happen_oneEvent h fun e => .map (.answerTaken e.st)).moves
    | _ => exact absurd hn id
  · exact (exec_oneEvent hc hk ha hn h).moves

/-! ### The ticks (R106, R119) -/

/-- What the ticks made and not yet taken depend on, and the divider, are those of another state. -/
structure SameTicks (s t : State) : Prop where
  timebase : t.timebase = s.timebase
  timerTicks : t.timerTicks = s.timerTicks
  ageDue : t.ageDue = s.ageDue
  ageTap : t.ageTap = s.ageTap
  clock : ∀ u, (t.timer u).clock = (s.timer u).clock

theorem SameTicks.tickOwed {s t : State} (h : SameTicks s t) (k : Tap) (u : TimerId) : t.tickOwed k u ↔ s.tickOwed k u := by
  unfold State.tickOwed
  rw [h.timerTicks, h.clock, h.timebase]

theorem SameTicks.ageOwed {s t : State} (h : SameTicks s t) : t.ageOwed ↔ s.ageOwed := by
  unfold State.ageOwed
  rw [h.ageDue, h.timebase, h.ageTap]

theorem SameTicks.beginsPeriod {s t : State} (h : SameTicks s t) (c : Instr) : t.beginsPeriod c ↔ s.beginsPeriod c := by
  unfold State.beginsPeriod
  simp only [h.tickOwed, h.ageOwed, h.timebase, h.ageTap]

theorem SameTicks.refl (s : State) : SameTicks s s := ⟨rfl, rfl, rfl, rfl, fun _ => rfl⟩

theorem SameTicks.trans {s t u : State} (h : SameTicks s t) (k : SameTicks t u) : SameTicks s u :=
  ⟨k.timebase.trans h.timebase, k.timerTicks.trans h.timerTicks, k.ageDue.trans h.ageDue, k.ageTap.trans h.ageTap,
    fun n => (k.clock n).trans (h.clock n)⟩

/-- A state that differs elsewhere has the same ticks. -/
theorem SameTicks.of_eq {s t : State} (htb : t.timebase = s.timebase) (htt : t.timerTicks = s.timerTicks)
    (had : t.ageDue = s.ageDue) (hat : t.ageTap = s.ageTap) (htm : t.timers = s.timers) : SameTicks s t :=
  ⟨htb, htt, had, hat, fun u => by unfold State.timer; rw [htm]⟩

theorem fill_ticks (e : Ev) : SameTicks e.st e.fill.st := by
  rcases fill_cases e with h | ⟨r, m, -, -, h⟩ | ⟨f, -, -, hl, h⟩ <;> rw [h]
  · exact .refl _
  · obtain ⟨a, -, ⟨-, h⟩ | ⟨n, jobs, -, h, -⟩⟩ := memoryAnswer_cases e r m <;> rw [h]
    · exact .of_eq rfl rfl rfl rfl rfl
    · exact .of_eq rfl rfl rfl rfl rfl
  · unfold Ev.map State.localAnswer
    dsimp only
    split
    · exact .of_eq rfl rfl rfl rfl rfl
    · exact .refl _
    · exact .refl _
    · exact .refl _

theorem take_ticks (e : Ev) (r : Request) : SameTicks e.st (e.take r).st := by
  rcases take_cases e r with ⟨_, _, _, _, h, -⟩ | ⟨-, _, h, -⟩ <;> rw [h]
  · exact .of_eq rfl rfl rfl rfl rfl
  · unfold State.keep
    cases r.kind
    · exact .of_eq rfl rfl rfl rfl rfl
    · exact .of_eq rfl rfl rfl rfl rfl

/-- The end of an event makes no tick and takes none: the completion keeps each timer's clock source (R167). -/
theorem close_ticks (e : Ev) : SameTicks e.st e.close := by
  refine close_induction (P := SameTicks e.st) (fun e h => h.trans ?_) (fun e h => h.trans (fill_ticks e))
    (fun s h _ => h.trans ?_) (fun e r h _ => h.trans (take_ticks e r)) (fun e h => h.trans ?_) e (.refl _)
  · rw [discardResponse_rest]
    exact .of_eq rfl rfl rfl rfl rfl
  · rw [warmComplete_fields]
    refine ⟨rfl, rfl, rfl, rfl, fun u => ?_⟩
    unfold State.timer
    rw [cell_mapAll]
  · rw [judge_rest]
    exact .of_eq rfl rfl rfl rfl rfl

theorem follow_ticks (e : Ev) : SameTicks e.st e.follow.st := by
  unfold Ev.follow
  split
  · exact close_ticks e
  · exact .refl _

/-- A tick row: nothing but parts of events, or the beginning of a period among them, exactly where it begins one. -/
theorem tick_moves {c : Instr} {f : Ev → Ev} {s t : State} (h : happen s f = .next t)
    (hf : ∀ e : Ev, (¬ e.st.beginsPeriod c ∧ Acts true e (f e)) ∨ (e.st.beginsPeriod c ∧ ActsOver e (f e))) :
    (¬ (s.inReset = false ∧ s.beginsPeriod c) ∧ Moves true s t) ∨
    (s.inReset = false ∧ s.beginsPeriod c ∧ ∃ u, Moves true s u ∧ Moves true u.nextPeriod t) := by
  cases hr : s.inReset with
  | true =>
    rw [happen_inReset hr] at h
    cases h
    exact .inl ⟨fun hc => Bool.noConfusion hc.1, Relation.ReflTransGen.refl⟩
  | false =>
    unfold happen at h
    rw [event_open hr] at h
    cases h
    have hsame := (follow_ticks ⟨s, []⟩).beginsPeriod c
    rcases hf (Ev.follow ⟨s, []⟩) with ⟨hn, hact⟩ | ⟨hb, hact⟩
    · obtain ⟨hp, hm⟩ := (follow_acts _).trans hact (proper_nil s)
      exact .inl ⟨fun hc => hn (hsame.mpr hc.2), hm.trans (close_moves hp)⟩
    · obtain ⟨a, ha, hover⟩ := (follow_acts _).trans_over hact
      obtain ⟨hp, hm⟩ := ha (proper_nil s)
      obtain ⟨hp', hm'⟩ := hover hp
      exact .inr ⟨rfl, hsame.mp hb, a.st, hm, hm'.trans (close_moves hp')⟩

/-- Every command but COLD_RESET is a sequence of parts of events, with the beginning of a REFCLK period among them
exactly where the row begins one (log 6). -/
theorem exec_moves {c : Instr} {s t : State} (hc : c ≠ .coldReset) (h : exec c s = .next t) :
    (¬ (s.inReset = false ∧ s.beginsPeriod c) ∧ Moves true s t) ∨
    (s.inReset = false ∧ s.beginsPeriod c ∧ ∃ u, Moves true s u ∧ Moves true u.nextPeriod t) := by
  by_cases hk : ∃ k, c = .tapTick k
  · obtain ⟨k, rfl⟩ := hk
    rw [exec_tapTick] at h
    exact tick_moves h (tapTick_acts k)
  · by_cases ha : c = .ageTick
    · subst ha
      rw [exec_ageTick] at h
      exact tick_moves h ageTickNext_acts
    · refine .inl ⟨?_, exec_moves_of_no_tick hc (fun k hck => hk ⟨k, hck⟩) ha h⟩
      rintro ⟨-, ⟨k, hck, -⟩ | ⟨hca, -⟩⟩
      · exact hk ⟨k, hck⟩
      · exact ha hca

/-! ### Every step -/

/-- A step is a command run on the state with another queue or another count of free choices, or nothing. -/
theorem step_cases {s t : State} (h : step s = .next t) :
    t = s ∨ ∃ (c : Instr) (u : State), u = { s with pending := u.pending, freeCount := u.freeCount } ∧
      exec c u = .next t := by
  unfold step at h
  split at h
  · exact .inr ⟨_, _, rfl, h⟩
  · split at h
    · cases h; exact .inl rfl
    · exact .inr ⟨_, _, rfl, h⟩

/-- What every part of an event, the beginning of a period and a cold reset keep, every step keeps. -/
theorem step_keeps {P : State → Prop} (hmove : ∀ s t, Move true s t → P s → P t) (hperiod : ∀ s : State, P s → P s.nextPeriod)
    (hcold : ∀ s : State, P s.coldReset) {s t : State} (h : step s = .next t) (hs : P s) : P t := by
  rcases step_cases h with rfl | ⟨c, u, hu, hc⟩
  · exact hs
  · have hPu : P u := hmove s u (.other s u (by rw [hu])) hs
    by_cases hcr : c = .coldReset
    · subst hcr
      have ht : t = u.coldReset := by cases hc; rfl
      rw [ht]
      exact hcold u
    · rcases exec_moves hcr hc with ⟨-, hm⟩ | ⟨-, -, v, hm, hm'⟩
      · exact hm.keep hmove hPu
      · exact hm'.keep hmove (hperiod v (hm.keep hmove hPu))

end Sys2Proof.Machine
end

section
/-! The laws of the store, the order table and the buffer (R46, R50, R85, R88, R111): every part of an event keeps them. -/

namespace Sys2Proof.Machine

/-! ### What the parts of an event write -/

/-- Cold reset, field by field (R170, R171). -/
theorem coldReset_fields (s : State) :
    s.coldReset =
      { State.reset with
        pending := s.pending, inReset := true, freeCount := s.freeCount, downResp := s.downResp
        up := { State.reset.up with offer := s.up.offer }
        mgmt := { State.reset.mgmt with selected := s.mgmt.selected } } := rfl

/-- What every take does, field by field (R37, R39). -/
theorem takeOffer_fields (s : State) (r : Request) (n : Option StreamId) (es : EntryState) :
    s.takeOffer r n es = { s with up := s.up.taken, order := s.order ++ [s.newEntry r n es] } := rfl

/-- A kept request, field by field (R43, R50). -/
theorem keep_fields (s : State) (r : Request) (n : StreamId) :
    s.keep r n =
      { s with
        up := s.up.taken, order := s.order ++ [s.newEntry r (some n) .queued], store := s.store ++ [s.newRecord r n]
        wdb := if r.kind = .write then s.wdb ++ [{ key := s.up.draws, data := fitBeats r.beats.toNat r.data }]
          else s.wdb } := by
  unfold State.keep
  cases r.kind <;> rfl

/-- A grant, field by field (R78 to R80). -/
theorem grantTo_fields (s : State) (r : StoreRec) :
    s.grantTo r =
      { s with
        store := s.store.filter (fun x => x.draw != r.draw), order := setEntry r.draw .issued s.order
        issue :=
          { stage := some
              { source := r.source, kind := r.kind, address := r.address, beats := r.beats, stream := r.stream,
                writeRef := r.writeRef }
            ptr := if r.urgent then s.issue.ptr
              else updAt s.issue.ptr (s.stream r.stream).live.priority (fun _ => r.stream) }
        streams := updAt s.streams r.stream (fun st => st.charge (s.regulated r.stream) r.beats) } := rfl

/-- A record after an age tick at it, with its mark of the urgency closure (R107, R110). -/
def StoreRec.agedBy (sel : StoreRec → Bool) (p : StoreRec × Bool) : StoreRec :=
  { (if sel p.1 then p.1.age1 else p.1) with urgent := p.1.urgent || p.2 }

/-- The records that leave the store at the expiries of an event (R113). -/
def State.goneBy (s : State) (sel : StoreRec → Bool) : List StoreRec := s.store.filter (s.expiring sel .drop)

/-- The expiries of an event, field by field (R107, R109, R110, R113). -/
theorem ageRecords_fields (e : Ev) (sel : StoreRec → Bool) :
    (e.ageRecords sel).st =
      { e.st with
        store := (urgencyClosure (e.st.expiring sel .force)
          (e.st.store.filter (fun r => !e.st.expiring sel .drop r))).map (StoreRec.agedBy sel)
        order := e.st.order.map (fun x =>
          if x.state = .queued ∧ (e.st.goneBy sel).any (fun r => r.draw == x.draw) then
            { x with state := .made .expired false } else x)
        wdb := e.st.wdb.filter (fun a => !(e.st.goneBy sel).any (fun r => r.writeRef == some a.key))
        streams := mapAll e.st.streams (fun n st =>
          st.expired ((e.st.store.filter (fun r => sel r && r.lastTick)).countP (fun r => r.stream == n))) } := by
  simp only [Ev.ageRecords, State.removeRecords, State.setStreams, State.setStore, State.setOrder, State.setWdb,
    State.goneBy]
  rfl

/-- The drain timeout, field by field (R166). -/
theorem drainTimeout_fields (e : Ev) :
    e.drainTimeout.st =
      { e.st with
        dev := { e.st.dev with drainTimer := e.st.dev.drainNext, drainRunning := false }
        streams := mapAll e.st.streams (fun n st => { st with issueCount := st.issueCount - issuedOf e.st.order n })
        order := ghostIssued e.st.order } := by
  simp only [Ev.drainTimeout, Ev.raise, Ev.map, State.setDev, State.setStreams, State.setOrder]

/-- DOWN's take: nothing, or the stage empties and its beats are freed (R81). -/
theorem issueTake_cases (s : State) :
    (s.issue.stage = none ∧ s.issueTake = s) ∨
    (∃ q, s.issue.stage = some q ∧
      s.issueTake = { s with issue := { s.issue with stage := none }, wdb := s.wdb.filter (fun a => !s.stageHolds a) }) := by
  unfold State.issueTake
  cases h : s.issue.stage with
  | none => exact .inl ⟨rfl, rfl⟩
  | some q => exact .inr ⟨q, rfl, rfl⟩

/-- A local answer, field by field: the entry leaves, or stays ABANDONED if it is a ghost (R98). -/
theorem localAnswer_fields {s : State} {f : OrderEntry} {status : LocalStatus} {ghost : Bool}
    (h : f.state = .made status ghost) :
    s.localAnswer f =
      { s with
        answer := { stage := some { source := f.source, status := status.answer, data := [] }, ptr := f.source }
        order := if ghost then setEntry f.draw .abandoned s.order else removeEntry f.draw s.order } := by
  unfold State.localAnswer
  rw [h]
  rfl

/-- A removed entry takes no other part of the state with it. -/
theorem memoryAnswered_fields (s : State) (a : Answer) (m : OrderEntry) :
    s.memoryAnswered a m =
      { s with answer := { s.answer with stage := some a }, order := removeEntry m.draw s.order, downResp := none } := rfl

/-! ### Capacities (R46, R50, R85) -/

/-- A take that R32 lets finds a free order entry. -/
theorem takeable_order {s : State} {r : Request} (h : s.takeable = some r) : s.order.length < Config.orderCapacity := by
  have hl := congrArg Lacking.order (takeable_some.mp h).2.2
  simpa [State.lacks, Lacking.none] using hl

/-- For a kept request it finds a free store record, and a WRITE's beats find room. -/
theorem takeable_kept {s : State} {r : Request} {n : StreamId} (h : s.takeable = some r) (hk : s.admission r = .kept n) :
    s.store.length < Config.storeCapacity ∧
      (r.kind = .write → s.bufferUsed + r.beats.toNat ≤ Config.bufferBeats) := by
  have hl := (takeable_some.mp h).2.2
  have hs := congrArg Lacking.store hl
  have hd := congrArg Lacking.data hl
  simp only [State.lacks, hk, Lacking.none, Bool.true_and, decide_eq_false_iff_not, Nat.not_le] at hs
  simp only [State.lacks, hk, Lacking.none, Bool.true_and, Bool.and_eq_false_iff, beq_eq_false_iff_ne,
    decide_eq_false_iff_not, Nat.not_lt] at hd
  exact ⟨hs, fun hw => hd.resolve_left (fun hn => hn hw)⟩

/-- Freed beats leave no more in use. -/
theorem sum_filter_le (p : Alloc → Bool) (l : List Alloc) :
    ((l.filter p).map (fun a => a.data.length)).sum ≤ (l.map (fun a => a.data.length)).sum :=
  (List.filter_sublist.map _).sum_le_sum fun _ _ => Nat.zero_le _

/-- A part of an event that lets no pool grow. -/
theorem State.WithinCapacity.shrunk {s t : State} (h : s.WithinCapacity) (hs : t.store.length ≤ s.store.length)
    (ho : t.order.length ≤ s.order.length) (hb : t.bufferUsed ≤ s.bufferUsed) : t.WithinCapacity :=
  ⟨hs.trans h.store, ho.trans h.order, hb.trans h.buffer⟩

theorem Move.withinCapacity {fin : Bool} {s t : State} (hmove : Move fin s t) (h : s.WithinCapacity) : t.WithinCapacity := by
  cases hmove with
  | other _ _ ht => rw [ht]; exact h.shrunk le_rfl le_rfl le_rfl
  | refused _ r stream ht =>
    refine ⟨h.store, ?_, h.buffer⟩
    rw [takeOffer_fields]
    simpa using takeable_order ht
  | kept _ r ht hk =>
    obtain ⟨hs, hb⟩ := takeable_kept ht hk
    have ho := takeable_order ht
    rw [keep_fields]
    refine ⟨by simpa using hs, by simpa using ho, ?_⟩
    have hused := h.buffer
    unfold State.bufferUsed at hused hb ⊢
    split
    · next hw => simpa using hb hw
    · exact hused
  | discardedAbandoned _ r m => exact h.shrunk le_rfl (removeEntry_sublist _ _).length_le le_rfl
  | discardedGhost _ r m => exact h.shrunk le_rfl (setEntry_length _ _ _).le le_rfl
  | memoryAnswered _ r m a => exact h.shrunk le_rfl (removeEntry_sublist _ _).length_le le_rfl
  | memoryAnsweredOf _ r m a => exact h.shrunk le_rfl (removeEntry_sublist _ _).length_le le_rfl
  | localAnswered _ f hf =>
    obtain ⟨-, -, -, status, ghost, hs⟩ := localChoice_some hf
    rw [localAnswer_fields hs]
    refine h.shrunk le_rfl ?_ le_rfl
    cases ghost
    · exact (removeEntry_sublist _ _).length_le
    · exact (setEntry_length _ _ _).le
  | granted _ r =>
    rw [grantTo_fields]
    exact h.shrunk (List.length_filter_le _ _) (setEntry_length _ _ _).le le_rfl
  | issueTaken =>
    rcases issueTake_cases s with ⟨-, ht⟩ | ⟨q, -, ht⟩ <;> rw [ht]
    · exact h
    · exact h.shrunk le_rfl le_rfl (sum_filter_le _ _)
  | aged e sel =>
    rw [ageRecords_fields]
    refine h.shrunk ?_ (by simp) (sum_filter_le _ _)
    have hlen := congrArg List.length (urgencyClosure_fst (e.st.expiring sel .force)
      (e.st.store.filter (fun r => !e.st.expiring sel .drop r)))
    rw [List.length_map] at hlen
    rw [List.length_map, hlen]
    exact List.length_filter_le _ _
  | drainTimedOut e =>
    rw [drainTimeout_fields]
    exact h.shrunk le_rfl (by simp [ghostIssued]) le_rfl
  | warmStarted =>
    rw [warmStart_fields]
    exact h.shrunk (Nat.zero_le _) (by simp [abortQueued]) (sum_filter_le _ _)
  | warmCompleted =>
    rw [warmComplete_fields]
    exact h.shrunk le_rfl le_rfl le_rfl
  | _ => exact h.shrunk le_rfl le_rfl le_rfl

theorem withinCapacity_cold (s : State) : s.coldReset.WithinCapacity := by
  rw [coldReset_fields]
  exact ⟨Nat.zero_le _, Nat.zero_le _, Nat.zero_le _⟩

/-! ### Urgency (R107, R110, R111) -/

/-- The marks of a closure are closed: with a record every earlier one of its stream or source is marked (R110). -/
theorem urgencyClosure_closed (seed : StoreRec → Bool) (store : List StoreRec) :
    (urgencyClosure seed store).Pairwise (fun p q =>
      (p.1.stream = q.1.stream ∨ p.1.source = q.1.source) → q.2 = true → p.2 = true) := by
  induction store with
  | nil => exact .nil
  | cons r later ih =>
    refine List.Pairwise.cons (fun q hq hsame hmark => ?_) ih
    have hany : (urgencyClosure seed later).any
        (fun p => p.2 && (p.1.stream == r.stream || p.1.source == r.source)) = true :=
      List.any_eq_true.mpr ⟨q, hq, by
      simpa only [hmark, Bool.true_and, Bool.or_eq_true, beq_iff_eq, eq_comm (b := r.stream), eq_comm (b := r.source)]
        using hsame⟩
    simp only [hany, Bool.or_true]

/-- Every seed is marked (R110). -/
theorem urgencyClosure_seed (seed : StoreRec → Bool) {store : List StoreRec} {p : StoreRec × Bool}
    (hp : p ∈ urgencyClosure seed store) (hseed : seed p.1 = true) : p.2 = true := by
  induction store with
  | nil => cases hp
  | cons r later ih =>
    rcases List.mem_cons.mp hp with rfl | hp
    · simp only [hseed, Bool.true_or]
    · exact ih hp

/-- A record of a closure is one of the store. -/
theorem mem_of_mem_urgencyClosure {seed : StoreRec → Bool} {store : List StoreRec} {p : StoreRec × Bool}
    (hp : p ∈ urgencyClosure seed store) : p.1 ∈ store := by
  rw [← urgencyClosure_fst seed store]
  exact List.mem_map_of_mem hp




end Sys2Proof.Machine
end

section
/-! Urgency (R107, R110, R111) and the correspondence of store and order table (R27, R46, R88): every part of an event
keeps them. -/

namespace Sys2Proof.Machine

/-! ### Urgency (R107, R110, R111) -/

/-- A record at age 0 is urgent and urgency is closed: the law of R107, R110 and R111 as one. -/
def UrgencyLaw (s : State) : Prop := s.urgencyClosed ∧ s.expiredUrgent

/-- The law speaks of the store alone, and no part of an event that takes records out breaks it. -/
theorem UrgencyLaw.sublist {s t : State} (h : UrgencyLaw s) (hst : t.store.Sublist s.store) : UrgencyLaw t :=
  ⟨List.Pairwise.sublist hst h.1, fun r hr => h.2 r (hst.mem hr)⟩

/-- A new record is not urgent and its age is not 0 (R43). -/
theorem UrgencyLaw.kept {s : State} (h : UrgencyLaw s) (r : Request) (n : StreamId) : UrgencyLaw (s.keep r n) := by
  rw [keep_fields]
  constructor
  · refine List.pairwise_append.mpr ⟨h.1, List.pairwise_singleton _ _, fun a _ b hb _ hu => ?_⟩
    rw [List.mem_singleton.mp hb] at hu
    cases hu
  · intro x hx h0
    rcases List.mem_append.mp hx with hx | hx
    · exact h.2 x hx h0
    · rw [List.mem_singleton.mp hx] at h0
      unfold State.newRecord at h0
      dsimp only at h0
      split at h0
      · cases h0
      · next hne => exact absurd (Option.some.inj h0) hne

@[simp] theorem agedBy_urgent (sel : StoreRec → Bool) (p : StoreRec × Bool) :
    (StoreRec.agedBy sel p).urgent = (p.1.urgent || p.2) := rfl

@[simp] theorem agedBy_shared (sel : StoreRec → Bool) (p : StoreRec × Bool) :
    (StoreRec.agedBy sel p).shared = p.1.shared := by
  unfold StoreRec.agedBy
  split <;> rfl

@[simp] theorem agedBy_stream (sel : StoreRec → Bool) (p : StoreRec × Bool) :
    (StoreRec.agedBy sel p).stream = p.1.stream := by
  unfold StoreRec.agedBy
  split <;> rfl

@[simp] theorem agedBy_source (sel : StoreRec → Bool) (p : StoreRec × Bool) :
    (StoreRec.agedBy sel p).source = p.1.source := by
  unfold StoreRec.agedBy
  split <;> rfl

@[simp] theorem agedBy_writeRef (sel : StoreRec → Bool) (p : StoreRec × Bool) :
    (StoreRec.agedBy sel p).writeRef = p.1.writeRef := by
  unfold StoreRec.agedBy
  split <;> rfl

/-- A record falls to age 0 from age 0, or from age 1 at an age tick (R107). -/
theorem agedBy_age_zero {sel : StoreRec → Bool} {p : StoreRec × Bool} (h : (StoreRec.agedBy sel p).age = some 0) :
    p.1.age = some 0 ∨ (sel p.1 = true ∧ p.1.lastTick = true) := by
  unfold StoreRec.agedBy at h
  split at h
  · next hsel =>
    unfold StoreRec.age1 at h
    dsimp only at h
    split at h
    · next k hk =>
      cases h
      exact .inr ⟨hsel, by simp [StoreRec.lastTick, hk]⟩
    · next hk => exact .inl hk
    · cases h
  · exact .inl h

theorem AgeAction.eq_force_of_ne_drop {a : AgeAction} (h : a ≠ .drop) : a = .force := by
  cases a
  · rfl
  · exact absurd rfl h

/-- The expiries of an event: the closure of the FORCE expiries is urgent, and DROP expiries are gone (R107 to R113). -/
theorem UrgencyLaw.aged {e : Ev} (h : UrgencyLaw e.st) (sel : StoreRec → Bool) : UrgencyLaw (e.ageRecords sel).st := by
  rw [ageRecords_fields]
  set left := e.st.store.filter (fun r => !e.st.expiring sel .drop r)
  have hleft : UrgencyLaw { e.st with store := left } := h.sublist List.filter_sublist
  have hpairs : (urgencyClosure (e.st.expiring sel .force) left).Pairwise (fun p q =>
      (p.1.stream = q.1.stream ∨ p.1.source = q.1.source) → q.1.urgent = true → p.1.urgent = true) := by
    rw [← List.pairwise_map (f := Prod.fst) (R := fun a b : StoreRec =>
      (a.stream = b.stream ∨ a.source = b.source) → b.urgent = true → a.urgent = true), urgencyClosure_fst]
    exact hleft.1
  constructor
  · refine List.pairwise_map.mpr ((hpairs.and (urgencyClosure_closed _ left)).imp fun {p q} hpq hsame hu => ?_)
    simp only [agedBy_stream, agedBy_source, agedBy_urgent, Bool.or_eq_true] at hsame hu ⊢
    exact hu.imp (hpq.1 hsame) (hpq.2 hsame)
  · intro r hr h0
    obtain ⟨p, hp, rfl⟩ := List.mem_map.mp hr
    have hmem := mem_of_mem_urgencyClosure hp
    rw [agedBy_urgent, Bool.or_eq_true]
    rcases agedBy_age_zero h0 with h0 | ⟨hsel, hlast⟩
    · exact .inl (hleft.2 _ hmem h0)
    · refine .inr (urgencyClosure_seed _ hp ?_)
      have hnot : ¬ e.st.expiring sel .drop p.1 = true := by simpa using (List.mem_filter.mp hmem).2
      simp only [State.expiring, hsel, hlast, Bool.true_and, beq_iff_eq] at hnot ⊢
      exact AgeAction.eq_force_of_ne_drop hnot

theorem Move.urgencyLaw {fin : Bool} {s t : State} (hmove : Move fin s t) (h : UrgencyLaw s) : UrgencyLaw t := by
  cases hmove with
  | other _ _ ht => rw [ht]; exact h
  | kept _ r => exact h.kept r _
  | localAnswered _ f hf =>
    obtain ⟨-, -, -, status, ghost, hs⟩ := localChoice_some hf
    rw [localAnswer_fields hs]
    exact h
  | granted _ r =>
    rw [grantTo_fields]
    exact h.sublist List.filter_sublist
  | issueTaken => rcases issueTake_cases s with ⟨-, ht⟩ | ⟨q, -, ht⟩ <;> rw [ht] <;> exact h
  | aged e sel => exact h.aged sel
  | drainTimedOut e => rw [drainTimeout_fields]; exact h
  | warmStarted => rw [warmStart_fields]; exact h.sublist (List.nil_sublist _)
  | warmCompleted => rw [warmComplete_fields]; exact h
  | _ => exact h

theorem urgencyLaw_cold (s : State) : UrgencyLaw s.coldReset := by
  rw [coldReset_fields]
  exact ⟨List.Pairwise.nil, fun r hr => absurd hr List.not_mem_nil⟩

/-! ### Entries and their drawing numbers (R88) -/

/-- Two order entries of one drawing number are the same entry. -/
theorem State.StoreMatches.entry_eq {s : State} (h : s.StoreMatches) {e m : OrderEntry} (he : e ∈ s.order)
    (hm : m ∈ s.order) (hdraw : e.draw = m.draw) : e = m := by
  have hdistinct : (s.order.map OrderEntry.draw).Nodup := List.pairwise_map.mpr (h.rising.imp Nat.ne_of_lt)
  exact List.inj_on_of_nodup_map hdistinct he hm hdraw

theorem oldestDue_mem {s : State} {S : Source} {m : OrderEntry} (h : s.oldestDue S = some m) : m ∈ s.order :=
  List.mem_of_find?_eq_some h

theorem answerFront_mem {s : State} {S : Source} {m : OrderEntry} (h : s.answerFront S = some m) : m ∈ s.order :=
  List.mem_of_find?_eq_some h

/-- The queued entries where every entry is rewritten. -/
theorem filter_queued_map (g : OrderEntry → OrderEntry) (l : List OrderEntry)
    (hg : ∀ e ∈ l, (g e).state = .queued → g e = e) :
    (l.map g).filter (fun e => e.state == .queued) =
      l.filter (fun e => e.state == .queued && (g e).state == .queued) := by
  induction l with
  | nil => rfl
  | cons e l ih =>
    have ih' := ih fun x hx => hg x (List.mem_cons_of_mem _ hx)
    have he := hg e List.mem_cons_self
    by_cases hq : (g e).state = .queued
    · have hq' : e.state = .queued := by rw [← he hq]; exact hq
      rw [List.map_cons, List.filter_cons_of_pos (by simpa using hq), he hq,
        List.filter_cons_of_pos (by simp [hq, hq']), ih']
    · rw [List.map_cons, List.filter_cons_of_neg (by simpa using hq), List.filter_cons_of_neg (by simp [hq]), ih']

/-- What keeps the draws of the entries and the queued ones among them keeps the correspondence. -/
theorem State.StoreMatches.reordered {s t : State} (h : s.StoreMatches) (hstore : t.store = s.store)
    (hdraws : t.up.draws = s.up.draws)
    (hsub : (t.order.map (fun e => e.draw)).Sublist (s.order.map (fun e => e.draw)))
    (hq : t.queuedEntries = s.queuedEntries) : t.StoreMatches := by
  refine ⟨by rw [hstore, hq]; exact h.correspond, ?_, fun e he => ?_⟩
  · exact List.pairwise_map.mp ((List.pairwise_map.mpr h.rising).sublist hsub)
  · obtain ⟨x, hx, hd⟩ := List.mem_map.mp (hsub.mem (List.mem_map_of_mem he))
    rw [hdraws, ← hd]
    exact h.drawn x hx

/-- An entry that is not QUEUED leaves. -/
theorem State.StoreMatches.queued_removeEntry {s : State} (h : s.StoreMatches) {m : OrderEntry} (hm : m ∈ s.order)
    (hs : m.state ≠ .queued) :
    (removeEntry m.draw s.order).filter (fun e => e.state == .queued) = s.queuedEntries := by
  unfold removeEntry State.queuedEntries
  rw [List.filter_filter]
  refine List.filter_congr fun e he => ?_
  by_cases hd : e.draw = m.draw
  · rw [h.entry_eq he hm hd]
    simp [hs]
  · simp [hd]

/-- An entry that is not QUEUED passes to another state that is not. -/
theorem State.StoreMatches.queued_setEntry {s : State} (h : s.StoreMatches) {m : OrderEntry} (hm : m ∈ s.order)
    (hs : m.state ≠ .queued) {es : EntryState} (hes : es ≠ .queued) :
    (setEntry m.draw es s.order).filter (fun e => e.state == .queued) = s.queuedEntries := by
  unfold setEntry State.queuedEntries
  rw [filter_queued_map]
  · refine List.filter_congr fun e he => ?_
    by_cases hd : e.draw = m.draw
    · rw [h.entry_eq he hm hd]
      simp [hs]
    · simp [hd]
  · intro e _ hq
    split at hq
    · exact absurd hq hes
    · next hd => exact if_neg hd

theorem removeEntry_draws_sublist (d : Nat) (l : List OrderEntry) :
    ((removeEntry d l).map (fun e => e.draw)).Sublist (l.map (fun e => e.draw)) := (removeEntry_sublist d l).map _

theorem State.StoreMatches.removed {s t : State} (h : s.StoreMatches) {m : OrderEntry} (hm : m ∈ s.order)
    (hs : m.state ≠ .queued) (horder : t.order = removeEntry m.draw s.order) (hstore : t.store = s.store)
    (hdraws : t.up.draws = s.up.draws) : t.StoreMatches :=
  h.reordered hstore hdraws (by rw [horder]; exact removeEntry_draws_sublist _ _)
    (by unfold State.queuedEntries; rw [horder]; exact h.queued_removeEntry hm hs)

theorem State.StoreMatches.restated {s t : State} (h : s.StoreMatches) {m : OrderEntry} (hm : m ∈ s.order)
    (hs : m.state ≠ .queued) {es : EntryState} (hes : es ≠ .queued) (horder : t.order = setEntry m.draw es s.order)
    (hstore : t.store = s.store) (hdraws : t.up.draws = s.up.draws) : t.StoreMatches :=
  h.reordered hstore hdraws (by rw [horder, setEntry_draws])
    (by unfold State.queuedEntries; rw [horder]; exact h.queued_setEntry hm hs hes)

/-- A take appends an entry with a new drawing number, and a record exactly if it is QUEUED (R39, R43). -/
theorem State.StoreMatches.appended {s t : State} (h : s.StoreMatches) {x : OrderEntry} {l : List StoreRec}
    (hx : x.draw = s.up.draws) (horder : t.order = s.order ++ [x]) (hstore : t.store = s.store ++ l)
    (hl : l.map StoreRec.shared = ([x].filter (fun e => e.state == .queued)).map OrderEntry.shared)
    (hdraws : t.up.draws = s.up.draws + 1) : t.StoreMatches := by
  refine ⟨?_, ?_, fun e he => ?_⟩
  · unfold State.queuedEntries
    rw [hstore, horder, List.filter_append, List.map_append, List.map_append, h.correspond, hl]
    rfl
  · rw [horder]
    refine List.pairwise_append.mpr ⟨h.rising, List.pairwise_singleton _ _, fun a ha b hb => ?_⟩
    rw [List.mem_singleton.mp hb, hx]
    exact h.drawn a ha
  · rw [horder] at he
    rw [hdraws]
    rcases List.mem_append.mp he with he | he
    · exact Nat.lt_succ_of_lt (h.drawn e he)
    · rw [List.mem_singleton.mp he, hx]
      exact Nat.lt_succ_self _

/-- A selection of records by what they share with their entries leaves with its entries. -/
theorem State.StoreMatches.thinned {s t : State} (h : s.StoreMatches) (keep : Shared → Bool)
    (hstore : t.store.map StoreRec.shared = (s.store.map StoreRec.shared).filter keep)
    (horder : t.queuedEntries = s.queuedEntries.filter (fun e => keep e.shared))
    (hdraw : t.order.map (fun e => e.draw) = s.order.map (fun e => e.draw)) (hdraws : t.up.draws = s.up.draws) :
    t.StoreMatches := by
  refine ⟨?_, ?_, fun e he => ?_⟩
  · rw [hstore, horder, h.correspond, List.filter_map]
    rfl
  · exact List.pairwise_map.mp (hdraw ▸ List.pairwise_map.mpr h.rising)
  · have hmem : e.draw ∈ s.order.map (fun e => e.draw) := hdraw ▸ List.mem_map_of_mem he
    obtain ⟨x, hx, hd⟩ := List.mem_map.mp hmem
    rw [hdraws, ← hd]
    exact h.drawn x hx

/-- The grant: the record leaves and its entry is no longer QUEUED (R78). -/
theorem State.StoreMatches.granted {s : State} (h : s.StoreMatches) (r : StoreRec) : (s.grantTo r).StoreMatches := by
  refine h.thinned (fun d => d.draw != r.draw) ?_ ?_ ?_ rfl
  · rw [grantTo_fields, List.filter_map]
    rfl
  · rw [grantTo_fields]
    unfold State.queuedEntries setEntry
    rw [filter_queued_map, List.filter_filter]
    · refine List.filter_congr fun e _ => ?_
      by_cases hd : e.draw = r.draw <;> simp [hd, OrderEntry.shared, Bool.and_comm]
    · intro e _ hq
      split at hq
      · cases hq
      · next hd => exact if_neg hd
  · rw [grantTo_fields]
    exact setEntry_draws _ _ _

/-- A record leaves at the expiries of an event exactly if its drawing number is one of those that leave. -/
theorem State.StoreMatches.gone_iff {s : State} (h : s.StoreMatches) (sel : StoreRec → Bool) {r : StoreRec}
    (hr : r ∈ s.store) : (s.goneBy sel).any (fun x => x.draw == r.draw) = s.expiring sel .drop r := by
  rw [Bool.eq_iff_iff, List.any_eq_true]
  constructor
  · rintro ⟨x, hx, hd⟩
    obtain ⟨hx, hgone⟩ := List.mem_filter.mp hx
    rwa [← h.eq_of_draw_eq hx hr (beq_iff_eq.mp hd)]
  · intro hgone
    exact ⟨r, List.mem_filter.mpr ⟨hr, hgone⟩, beq_self_eq_true _⟩

/-- The expiries of an event: the records under DROP leave, and their entries are no longer QUEUED (R113). -/
theorem State.StoreMatches.aged {e : Ev} (h : e.st.StoreMatches) (sel : StoreRec → Bool) :
    (e.ageRecords sel).st.StoreMatches := by
  refine h.thinned (fun d => !(e.st.goneBy sel).any (fun x => x.draw == d.draw)) ?_ ?_ ?_ rfl
  · rw [ageRecords_fields, List.map_map]
    have hshared : StoreRec.shared ∘ StoreRec.agedBy sel = StoreRec.shared ∘ Prod.fst := funext fun p => agedBy_shared sel p
    rw [hshared, ← List.map_map, urgencyClosure_fst, List.filter_map]
    congr 1
    exact List.filter_congr fun r hr => by rw [Function.comp_apply, ← h.gone_iff sel hr]; rfl
  · rw [ageRecords_fields]
    unfold State.queuedEntries
    rw [filter_queued_map, List.filter_filter]
    · refine List.filter_congr fun x _ => ?_
      by_cases hq : x.state = .queued <;> by_cases hg : (e.st.goneBy sel).any (fun r => r.draw == x.draw) = true <;>
        simp [hq, hg, OrderEntry.shared]
    · intro x _ hq
      split at hq
      · cases hq
      · next hd => exact if_neg hd
  · rw [ageRecords_fields, List.map_map]
    exact List.map_congr_left fun x _ => by dsimp only [Function.comp_apply]; split <;> rfl

/-- At the start of a warm reset no record and no QUEUED entry is left (R162). -/
theorem State.StoreMatches.warmStarted {s : State} (h : s.StoreMatches) : s.warmStart.StoreMatches := by
  refine h.thinned (fun _ => false) ?_ ?_ ?_ ?_ <;> rw [warmStart_fields]
  · simp
  · unfold State.queuedEntries abortQueued
    rw [filter_queued_map]
    · rw [List.filter_filter]
      exact List.filter_congr fun x _ => by by_cases hq : x.state = .queued <;> simp [hq]
    · intro x _ hq
      split at hq
      · cases hq
      · next hd => exact if_neg hd
  · unfold abortQueued
    rw [List.map_map]
    exact List.map_congr_left fun x _ => by dsimp only [Function.comp_apply]; split <;> rfl

/-- At the drain timeout no entry that was QUEUED changes (R166). -/
theorem State.StoreMatches.drainTimedOut {e : Ev} (h : e.st.StoreMatches) : e.drainTimeout.st.StoreMatches := by
  rw [drainTimeout_fields]
  refine h.reordered rfl rfl ?_ ?_
  · have hdraws : (ghostIssued e.st.order).map (fun x => x.draw) = e.st.order.map (fun x => x.draw) := by
      unfold ghostIssued
      rw [List.map_map]
      exact List.map_congr_left fun x _ => by dsimp only [Function.comp_apply]; split <;> rfl
    rw [hdraws]
  · unfold State.queuedEntries ghostIssued
    rw [filter_queued_map]
    · exact List.filter_congr fun x _ => by by_cases hi : x.state = .issued <;> simp [hi]
    · intro x _ hq
      split at hq
      · cases hq
      · next hd => exact if_neg hd

theorem Move.storeMatches {fin : Bool} {s t : State} (hmove : Move fin s t) (h : s.StoreMatches) : t.StoreMatches := by
  cases hmove with
  | other _ _ ht => rw [ht]; exact ⟨h.correspond, h.rising, h.drawn⟩
  | refused _ r stream =>
    rw [takeOffer_fields]
    exact h.appended (l := []) rfl rfl (List.append_nil _).symm rfl rfl
  | kept _ r =>
    rw [keep_fields]
    exact h.appended (l := [s.newRecord r (s.classify r)]) rfl rfl rfl rfl rfl
  | discardedAbandoned _ r m hm hs =>
    exact h.removed (oldestDue_mem hm) (by rw [hs]; decide) rfl rfl rfl
  | discardedGhost _ r m status ghost hm hs =>
    exact h.restated (oldestDue_mem hm) (by rw [hs]; nofun) (es := .made status false) (by nofun) rfl rfl rfl
  | memoryAnswered _ r m a ha =>
    obtain ⟨-, hm, hi, -⟩ := answerable_some ha
    exact h.removed (oldestDue_mem hm) (by rw [hi]; decide) rfl rfl rfl
  | memoryAnsweredOf _ r m a n ok ha =>
    obtain ⟨-, hm, hi, -⟩ := answerable_some ha
    exact h.removed (oldestDue_mem hm) (by rw [hi]; decide) rfl rfl rfl
  | localAnswered _ f hf =>
    obtain ⟨S, hfront, -, status, ghost, hs⟩ := localChoice_some hf
    have hq : f.state ≠ .queued := by rw [hs]; nofun
    rw [localAnswer_fields hs]
    cases ghost
    · exact h.removed (answerFront_mem hfront) hq rfl rfl rfl
    · exact h.restated (answerFront_mem hfront) hq (es := .abandoned) (by nofun) rfl rfl rfl
  | granted _ r => exact h.granted r
  | issueTaken =>
    rcases issueTake_cases s with ⟨-, ht⟩ | ⟨q, -, ht⟩ <;> rw [ht]
    · exact h
    · exact ⟨h.correspond, h.rising, h.drawn⟩
  | aged e sel => exact h.aged sel
  | drainTimedOut e => exact h.drainTimedOut
  | warmStarted => exact h.warmStarted
  | warmCompleted => rw [warmComplete_fields]; exact ⟨h.correspond, h.rising, h.drawn⟩
  | _ => exact ⟨h.correspond, h.rising, h.drawn⟩

theorem storeMatches_cold (s : State) : s.coldReset.StoreMatches := by
  rw [coldReset_fields]
  exact ⟨rfl, List.Pairwise.nil, fun e he => absurd he List.not_mem_nil⟩

end Sys2Proof.Machine
end

section
/-! Issue counts (R27), the order of states within a source list (R88) and the write data buffer (R50): every part of an
event keeps them in a state whose store and order table match. -/

namespace Sys2Proof.Machine

/-! ### One entry of the order table -/

/-- The order table around an entry: the drawing numbers rise, so that only this entry leaves, or changes, with its
drawing number. -/
theorem State.StoreMatches.around {s : State} (h : s.StoreMatches) {m : OrderEntry} (hm : m ∈ s.order) :
    ∃ as bs, s.order = as ++ m :: bs ∧ (∀ e ∈ as, e.draw < m.draw) ∧ (∀ e ∈ bs, m.draw < e.draw) ∧
      removeEntry m.draw s.order = as ++ bs ∧ ∀ es, setEntry m.draw es s.order = as ++ { m with state := es } :: bs := by
  obtain ⟨as, bs, ho⟩ := List.append_of_mem hm
  have hr := h.rising
  rw [ho, List.pairwise_append, List.pairwise_cons] at hr
  obtain ⟨-, ⟨hb, -⟩, hab⟩ := hr
  have ha : ∀ e ∈ as, e.draw < m.draw := fun e he => hab e he m List.mem_cons_self
  refine ⟨as, bs, ho, ha, hb, ?_, fun es => ?_⟩
  · have has : as.filter (fun e => e.draw != m.draw) = as :=
      List.filter_eq_self.mpr fun e he => by simpa using (ha e he).ne
    have hbs : bs.filter (fun e => e.draw != m.draw) = bs :=
      List.filter_eq_self.mpr fun e he => by simpa using (hb e he).ne'
    rw [removeEntry, ho, List.filter_append, List.filter_cons_of_neg (by simp), has, hbs]
  · have hleave : ∀ l : List OrderEntry, (∀ e ∈ l, e.draw ≠ m.draw) → setEntry m.draw es l = l := fun l hl => by
      unfold setEntry
      exact (List.map_congr_left fun e he => if_neg (hl e he)).trans (List.map_id' l)
    have happend : setEntry m.draw es s.order = setEntry m.draw es as ++ { m with state := es } :: setEntry m.draw es bs := by
      rw [ho]
      unfold setEntry
      rw [List.map_append, List.map_cons, if_pos rfl]
    rw [happend, hleave as fun e he => (ha e he).ne, hleave bs fun e he => (hb e he).ne']

/-- A store record has a QUEUED entry that shares its numbers (R46). -/
theorem State.StoreMatches.entry_of_record {s : State} (h : s.StoreMatches) {r : StoreRec} (hr : r ∈ s.store) :
    ∃ m ∈ s.order, m.state = .queued ∧ m.shared = r.shared := by
  have hmem : r.shared ∈ s.queuedEntries.map OrderEntry.shared := h.correspond ▸ List.mem_map_of_mem hr
  obtain ⟨m, hm, hs⟩ := List.mem_map.mp hmem
  obtain ⟨hm, hq⟩ := List.mem_filter.mp hm
  exact ⟨m, hm, beq_iff_eq.mp hq, hs⟩

/-! ### Issue counts (R27) -/

/-- Rewriting entries that stay, or stay not, ISSUED of the same stream changes no count. -/
theorem issuedOf_map {g : OrderEntry → OrderEntry} {l : List OrderEntry} (n : StreamId)
    (hg : ∀ e, (g e).stream = e.stream ∧ ((g e).state = .issued ↔ e.state = .issued)) :
    issuedOf (l.map g) n = issuedOf l n := by
  unfold issuedOf
  rw [List.countP_map]
  refine List.countP_congr fun e _ => ?_
  simp only [Function.comp_apply, Bool.and_eq_true, beq_iff_eq, (hg e).1, (hg e).2]

/-- The count that one entry makes. -/
def OrderEntry.issuedIn (m : OrderEntry) (n : StreamId) : Nat := if m.stream = some n ∧ m.state = .issued then 1 else 0

theorem issuedOf_around (as bs : List OrderEntry) (m : OrderEntry) (n : StreamId) :
    issuedOf (as ++ m :: bs) n = issuedOf (as ++ bs) n + m.issuedIn n := by
  unfold issuedOf OrderEntry.issuedIn
  rw [List.countP_append, List.countP_append, List.countP_cons]
  simp only [Bool.and_eq_true, beq_iff_eq]
  omega

theorem State.StoreMatches.issuedOf_removeEntry {s : State} (h : s.StoreMatches) {m : OrderEntry} (hm : m ∈ s.order)
    (n : StreamId) : issuedOf s.order n = issuedOf (removeEntry m.draw s.order) n + m.issuedIn n := by
  obtain ⟨as, bs, ho, -, -, hrem, -⟩ := h.around hm
  rw [hrem, ho, issuedOf_around]

theorem State.StoreMatches.issuedOf_setEntry {s : State} (h : s.StoreMatches) {m : OrderEntry} (hm : m ∈ s.order)
    (es : EntryState) (n : StreamId) :
    issuedOf (setEntry m.draw es s.order) n + m.issuedIn n =
      issuedOf s.order n + ({ m with state := es } : OrderEntry).issuedIn n := by
  obtain ⟨as, bs, ho, -, -, -, hset⟩ := h.around hm
  rw [hset, ho, issuedOf_around, issuedOf_around]
  omega

theorem issuedIn_of_not {m : OrderEntry} {n : StreamId} (h : m.state ≠ .issued) : m.issuedIn n = 0 :=
  if_neg fun hc => h hc.2

/-- The counts stay exact where neither they nor the ISSUED entries change. -/
theorem State.issueCountsExact.of_eq {s t : State} (h : s.issueCountsExact)
    (hc : ∀ n, (t.stream n).issueCount = (s.stream n).issueCount) (ho : ∀ n, issuedOf t.order n = issuedOf s.order n) :
    t.issueCountsExact := fun n => by rw [hc, ho]; exact h n

theorem StreamMove.issueCount {a b : Stream} (h : StreamMove a b) : b.issueCount = a.issueCount := by
  cases h with
  | applied =>
    unfold Stream.apply
    split <;> rfl
  | _ => rfl

theorem charge_issueCount (st : Stream) (regulated : Bool) (b : Nat) :
    (st.charge regulated b).issueCount = st.issueCount + 1 := by
  cases regulated <;> rfl

/-- No entry is ISSUED after the drain timeout (R166). -/
theorem issuedOf_ghostIssued (l : List OrderEntry) (n : StreamId) : issuedOf (ghostIssued l) n = 0 := by
  unfold issuedOf ghostIssued
  rw [List.countP_eq_zero]
  intro e he
  obtain ⟨x, -, rfl⟩ := List.mem_map.mp he
  split
  · simp
  · next hx => simp [hx]

/-- A memory answer takes one ISSUED entry of its stream (R91). -/
theorem State.issueCountsExact.answered {s : State} (h : s.issueCountsExact) (hm : s.StoreMatches) {m : OrderEntry}
    (hmem : m ∈ s.order) (hi : m.state = .issued) {n : StreamId} (hn : m.stream = some n) (a : Answer) (ok : Bool) :
    ((s.memoryAnswered a m).onStream n (fun st => st.answered ok)).issueCountsExact := by
  intro k
  have hrem := hm.issuedOf_removeEntry hmem k
  have hk := h k
  have horder : ((s.memoryAnswered a m).onStream n (fun st => st.answered ok)).order = removeEntry m.draw s.order := rfl
  have hstream : (s.memoryAnswered a m).stream k = s.stream k := rfl
  rw [State.onStream_stream, horder, hstream]
  by_cases hnk : n = k
  · have hone : m.issuedIn k = 1 := if_pos ⟨by rw [hn, hnk], hi⟩
    rw [if_pos hnk]
    show (s.stream k).issueCount - 1 = _
    omega
  · have hnone : m.issuedIn k = 0 := if_neg fun hc => hnk (Option.some.inj (hn.symm.trans hc.1))
    rw [if_neg hnk]
    omega

/-- A grant makes one entry of its stream ISSUED (R78, R79). -/
theorem State.issueCountsExact.granted {s : State} (h : s.issueCountsExact) (hm : s.StoreMatches) {r : StoreRec}
    (hr : r ∈ s.store) : (s.grantTo r).issueCountsExact := by
  obtain ⟨m, hmem, hq, hsh⟩ := hm.entry_of_record hr
  have hdraw : m.draw = r.draw := congrArg Shared.draw hsh
  have hstream : m.stream = some r.stream := congrArg Shared.stream hsh
  intro k
  have hset := hm.issuedOf_setEntry hmem .issued k
  rw [issuedIn_of_not (m := m) (by rw [hq]; decide), Nat.add_zero] at hset
  have hk := h k
  have horder : (s.grantTo r).order = setEntry m.draw .issued s.order := by rw [grantTo_fields, hdraw]
  have hafter : (s.grantTo r).stream k =
      if r.stream = k then (s.stream k).charge (s.regulated r.stream) r.beats else s.stream k := by
    rw [grantTo_fields]
    exact cell_updAt _ _ _ _
  rw [horder, hset, hafter]
  by_cases hrk : r.stream = k
  · have hone : ({ m with state := .issued } : OrderEntry).issuedIn k = 1 := if_pos ⟨by rw [← hrk]; exact hstream, rfl⟩
    rw [if_pos hrk, charge_issueCount, hk, hone]
  · have hnone : ({ m with state := .issued } : OrderEntry).issuedIn k = 0 :=
      if_neg fun hc => hrk (Option.some.inj (hstream.symm.trans hc.1))
    rw [if_neg hrk, hk, hnone, Nat.add_zero]

theorem Move.issueCountsExact {fin : Bool} {s t : State} (hmove : Move fin s t) (hm : s.StoreMatches) (h : s.issueCountsExact) :
    t.issueCountsExact := by
  cases hmove with
  | other _ _ ht => rw [ht]; exact h
  | streams _ v hv => exact h.of_eq (fun n => (hv n).issueCount) fun _ => rfl
  | refused _ r stream =>
    refine h.of_eq (fun _ => rfl) fun n => ?_
    rw [takeOffer_fields, issuedOf_around s.order [] _ n, List.append_nil, issuedIn_of_not (by nofun), Nat.add_zero]
  | kept _ r =>
    rw [keep_fields]
    refine h.of_eq (fun _ => rfl) fun n => ?_
    rw [issuedOf_around s.order [] _ n, List.append_nil, issuedIn_of_not (by nofun), Nat.add_zero]
  | discardedAbandoned _ r m hd hs =>
    refine h.of_eq (fun _ => rfl) fun n => ?_
    rw [hm.issuedOf_removeEntry (oldestDue_mem hd) n, issuedIn_of_not (by rw [hs]; decide), Nat.add_zero]
    rfl
  | discardedGhost _ r m status ghost hd hs =>
    refine h.of_eq (fun _ => rfl) fun n => ?_
    have hset := hm.issuedOf_setEntry (oldestDue_mem hd) (.made status false) n
    rwa [issuedIn_of_not (by rw [hs]; nofun), issuedIn_of_not (by nofun)] at hset
  | memoryAnswered _ r m a ha hn =>
    obtain ⟨-, hd, -⟩ := answerable_some ha
    refine h.of_eq (fun _ => rfl) fun n => ?_
    have hnone : m.issuedIn n = 0 := if_neg fun hc => by rw [hn] at hc; cases hc.1
    rw [hm.issuedOf_removeEntry (oldestDue_mem hd) n, hnone, Nat.add_zero]
    rfl
  | memoryAnsweredOf _ r m a n ok ha hn =>
    obtain ⟨-, hd, hi, -⟩ := answerable_some ha
    exact h.answered hm (oldestDue_mem hd) hi hn a ok
  | localAnswered _ f hf =>
    obtain ⟨S, hfront, -, status, ghost, hs⟩ := localChoice_some hf
    rw [localAnswer_fields hs]
    refine h.of_eq (fun _ => rfl) fun n => ?_
    have hnot : f.issuedIn n = 0 := issuedIn_of_not (by rw [hs]; nofun)
    cases ghost
    · have hrem := hm.issuedOf_removeEntry (answerFront_mem hfront) n
      rw [hnot, Nat.add_zero] at hrem
      exact hrem.symm
    · have hset := hm.issuedOf_setEntry (answerFront_mem hfront) .abandoned n
      rwa [hnot, issuedIn_of_not (by nofun)] at hset
  | granted _ r hs hg => exact h.granted hm (hm.eligible_of_grantChoice hg).1
  | issueTaken => rcases issueTake_cases s with ⟨-, ht⟩ | ⟨q, -, ht⟩ <;> rw [ht] <;> exact h
  | aged e sel =>
    refine h.of_eq (fun n => ?_) fun n => ?_
    · obtain ⟨k, hk⟩ := ageRecords_stream e sel n
      rw [hk]
      rfl
    · rw [ageRecords_fields]
      refine issuedOf_map n fun x => ?_
      split
      · next hx => exact ⟨rfl, by simp [hx.1]⟩
      · exact ⟨rfl, Iff.rfl⟩
  | drainTimedOut e =>
    rw [drainTimeout_fields]
    intro n
    unfold State.stream
    rw [cell_mapAll, issuedOf_ghostIssued]
    have hn := h n
    unfold State.stream at hn
    dsimp only
    omega
  | warmStarted =>
    rw [warmStart_fields]
    refine h.of_eq (fun _ => rfl) fun n => issuedOf_map n fun x => ?_
    split
    · next hx => exact ⟨rfl, by simp [hx]⟩
    · exact ⟨rfl, Iff.rfl⟩
  | warmCompleted _ hd =>
    obtain ⟨-, hall, -⟩ := (drained_iff s).mp hd
    rw [warmComplete_fields]
    intro n
    unfold State.stream
    rw [cell_mapAll]
    symm
    refine List.countP_eq_zero.mpr fun e he => ?_
    have hstate : e.state = .abandoned := hall e he
    simp [hstate]
  | _ => exact h

theorem issueCountsExact_cold (s : State) : s.coldReset.issueCountsExact := by
  rw [coldReset_fields]
  intro n
  show (cell State.reset.streams n).issueCount = 0
  unfold State.reset
  rw [cell_replicate]
  rfl

/-! ### The order of states within a source list (R88) -/

/-- What R88 has two entries of one source in the table be, the first of them standing before the second. -/
def InListOrder (a b : OrderEntry) : Prop :=
  a.source = b.source → (b.state = .abandoned → a.state = .abandoned) ∧ (b.state = .issued → a.state ≠ .queued)

theorem State.listsOrdered_iff (s : State) : s.listsOrdered ↔ s.order.Pairwise InListOrder := Iff.rfl

/-- An entry that is neither ABANDONED nor ISSUED may stand behind any other. -/
theorem inListOrder_of_later {a b : OrderEntry} (h1 : b.state ≠ .abandoned) (h2 : b.state ≠ .issued) : InListOrder a b :=
  fun _ => ⟨fun h => absurd h h1, fun h => absurd h h2⟩

/-- Entries that leave QUEUED or ISSUED for LOCAL, and the others as they stand, stay in order. -/
theorem State.listsOrdered.mapped {s : State} (h : s.listsOrdered) {g : OrderEntry → OrderEntry}
    (hg : ∀ e ∈ s.order, g e = e ∨
      (e.state ≠ .abandoned ∧ (g e).source = e.source ∧ ∃ status ghost, (g e).state = .made status ghost)) :
    (s.order.map g).Pairwise InListOrder := by
  refine List.pairwise_map.mpr (List.Pairwise.imp_of_mem (fun {a b} ha hb hab => ?_) h)
  rcases hg b hb with hb' | ⟨-, -, status, ghost, hb'⟩
  · rw [hb']
    rcases hg a ha with ha' | ⟨hna, hsrc, status, ghost, ha'⟩
    · rw [ha']
      exact hab
    · intro hs
      rw [hsrc] at hs
      exact ⟨fun hba => absurd ((hab hs).1 hba) hna, fun _ => by rw [ha']; nofun⟩
  · exact inListOrder_of_later (by rw [hb']; nofun) (by rw [hb']; nofun)

/-- One entry in another state: what it has to meet before it and behind it. -/
theorem State.listsOrdered.restated {s : State} (h : s.listsOrdered) (hm : s.StoreMatches) {m : OrderEntry}
    (hmem : m ∈ s.order) {es : EntryState}
    (hbefore : ∀ e ∈ s.order, e.draw < m.draw → InListOrder e { m with state := es })
    (hbehind : ∀ e ∈ s.order, m.draw < e.draw → InListOrder { m with state := es } e) :
    (setEntry m.draw es s.order).Pairwise InListOrder := by
  obtain ⟨as, bs, ho, ha, hb, -, hset⟩ := hm.around hmem
  have hpair := (State.listsOrdered_iff s).mp h
  rw [ho, List.pairwise_append, List.pairwise_cons] at hpair
  obtain ⟨has, ⟨-, hbs⟩, hab⟩ := hpair
  have hin : ∀ e, e ∈ as ∨ e ∈ bs → e ∈ s.order := fun e he => by
    rw [ho]
    rcases he with he | he
    · exact List.mem_append_left _ he
    · exact List.mem_append_right _ (List.mem_cons_of_mem _ he)
  rw [hset, List.pairwise_append, List.pairwise_cons]
  refine ⟨has, ⟨fun e he => hbehind e (hin e (.inr he)) (hb e he), hbs⟩, fun e he x hx => ?_⟩
  rcases List.mem_cons.mp hx with rfl | hx
  · exact hbefore e (hin e (.inl he)) (ha e he)
  · exact hab e he x (List.mem_cons_of_mem _ hx)

/-- The entries of a rising table before the one that a search finds fail its test. -/
theorem State.StoreMatches.before_find {s : State} (h : s.StoreMatches) {p : OrderEntry → Bool} {m : OrderEntry}
    (hf : s.order.find? p = some m) : ∀ e ∈ s.order, e.draw < m.draw → p e = false := by
  intro e he hlt
  by_contra hp
  exact absurd (key_le_of_find?_eq_some h.rising hf he (by simpa using hp)) (Nat.not_le.mpr hlt)

/-- Every entry before a source's answer front is ABANDONED (R89). -/
theorem State.StoreMatches.before_front {s : State} (h : s.StoreMatches) {S : Source} {f : OrderEntry}
    (hf : s.answerFront S = some f) : ∀ e ∈ s.order, e.source = S → e.draw < f.draw → e.state = .abandoned := by
  intro e he hs hlt
  have hp := h.before_find hf e he hlt
  simpa [hs] using hp

theorem answerFront_source {s : State} {S : Source} {f : OrderEntry} (h : s.answerFront S = some f) : f.source = S := by
  have hp := List.find?_some h
  simp only [Bool.and_eq_true, beq_iff_eq] at hp
  exact hp.1

/-- A ghost answer front becomes ABANDONED: only ABANDONED entries of its source stand before it (R98). -/
theorem State.listsOrdered.abandoned {s : State} (h : s.listsOrdered) (hm : s.StoreMatches) {S : Source} {f : OrderEntry}
    (hf : s.answerFront S = some f) : (setEntry f.draw .abandoned s.order).Pairwise InListOrder := by
  refine h.restated hm (answerFront_mem hf) (fun e he hlt hs => ⟨fun _ => ?_, nofun⟩) fun e _ _ _ => ⟨fun _ => rfl, fun _ => by nofun⟩
  exact hm.before_front hf e he (Eq.trans (b := f.source) hs (answerFront_source hf)) hlt

/-- A granted entry becomes ISSUED: no QUEUED entry of its source stands before it, by the order condition (R60, R78). -/
theorem State.listsOrdered.granted {s : State} (h : s.listsOrdered) (hm : s.StoreMatches) {r : StoreRec}
    (hr : r ∈ s.store) (helig : s.eligible r = true) : (setEntry r.draw .issued s.order).Pairwise InListOrder := by
  obtain ⟨m, hmem, hq, hsh⟩ := hm.entry_of_record hr
  have hdraw : m.draw = r.draw := congrArg Shared.draw hsh
  have hsource : m.source = r.source := congrArg Shared.source hsh
  have hpair := (State.listsOrdered_iff s).mp h
  obtain ⟨as, bs, ho, ha, hb, -⟩ := hm.around hmem
  have hbehind : ∀ e ∈ s.order, m.draw < e.draw → InListOrder m e := by
    intro e he hlt
    rw [ho, List.pairwise_append, List.pairwise_cons] at hpair
    rw [ho] at he
    rcases List.mem_append.mp he with he | he
    · exact absurd (ha e he) (Nat.lt_asymm hlt)
    · rcases List.mem_cons.mp he with rfl | he
      · exact absurd hlt (Nat.lt_irrefl _)
      · exact hpair.2.1.1 e he
  rw [← hdraw]
  refine h.restated hm hmem (fun e he hlt hs => ⟨nofun, fun _ heq => ?_⟩) fun e he hlt hs => ⟨fun hab => ?_, fun _ => by nofun⟩
  · obtain ⟨-, horder, -⟩ := (s.eligible_iff r).mp helig
    rw [State.orderOk_eq_any, Option.any_eq_true] at horder
    obtain ⟨x, hx, hxd⟩ := horder
    have hxm : x = m := hm.entry_eq (List.mem_of_find?_eq_some hx) hmem ((beq_iff_eq.mp hxd).trans hdraw.symm)
    rw [hxm] at hx
    have hno := hm.before_find hx e he hlt
    simp [hs.trans hsource, heq] at hno
  · have := (hbehind e he hlt hs).1 hab
    rw [hq] at this
    cases this

/-- A new entry stands behind all others, LOCAL or QUEUED. -/
theorem State.listsOrdered.appended {s : State} (h : s.listsOrdered) {x : OrderEntry} (h1 : x.state ≠ .abandoned)
    (h2 : x.state ≠ .issued) : (s.order ++ [x]).Pairwise InListOrder :=
  List.pairwise_append.mpr ⟨h, List.pairwise_singleton _ _, fun _ _ b hb => by
    rw [List.mem_singleton.mp hb]
    exact inListOrder_of_later h1 h2⟩

theorem State.listsOrdered.removed {s : State} (h : s.listsOrdered) (d : Nat) :
    (removeEntry d s.order).Pairwise InListOrder := List.Pairwise.sublist (removeEntry_sublist d _) h

theorem Move.listsOrdered {fin : Bool} {s t : State} (hmove : Move fin s t) (hm : s.StoreMatches) (h : s.listsOrdered) :
    t.listsOrdered := by
  cases hmove with
  | other _ _ ht => rw [ht]; exact h
  | refused _ r stream => exact h.appended (by nofun) (by nofun)
  | kept _ r => rw [keep_fields]; exact h.appended (by nofun) (by nofun)
  | discardedAbandoned _ r m => exact h.removed _
  | discardedGhost _ r m status ghost hd hs =>
    refine h.mapped fun e he => ?_
    split
    · next hdraw =>
      rw [hm.entry_eq he (oldestDue_mem hd) hdraw]
      exact .inr ⟨by rw [hs]; nofun, rfl, status, false, rfl⟩
    · exact .inl rfl
  | memoryAnswered _ r m a => exact h.removed _
  | memoryAnsweredOf _ r m a => exact h.removed _
  | localAnswered _ f hf =>
    obtain ⟨S, hfront, -, status, ghost, hs⟩ := localChoice_some hf
    rw [localAnswer_fields hs]
    cases ghost
    · exact h.removed _
    · exact h.abandoned hm hfront
  | granted _ r hs hg =>
    obtain ⟨hr, helig⟩ := hm.eligible_of_grantChoice hg
    rw [grantTo_fields]
    exact h.granted hm hr helig
  | issueTaken => rcases issueTake_cases s with ⟨-, ht⟩ | ⟨q, -, ht⟩ <;> rw [ht] <;> exact h
  | aged e sel =>
    rw [ageRecords_fields]
    refine h.mapped fun x _ => ?_
    split
    · next hx => exact .inr ⟨by rw [hx.1]; decide, rfl, .expired, false, rfl⟩
    · exact .inl rfl
  | drainTimedOut e =>
    rw [drainTimeout_fields]
    refine h.mapped fun x _ => ?_
    split
    · next hx => exact .inr ⟨by rw [hx]; decide, rfl, .aborted, true, rfl⟩
    · exact .inl rfl
  | warmStarted =>
    rw [warmStart_fields]
    refine h.mapped fun x _ => ?_
    split
    · next hx => exact .inr ⟨by rw [hx]; decide, rfl, .aborted, false, rfl⟩
    · exact .inl rfl
  | warmCompleted => rw [warmComplete_fields]; exact h
  | _ => exact h

theorem listsOrdered_cold (s : State) : s.coldReset.listsOrdered := by
  rw [coldReset_fields]
  exact List.Pairwise.nil

end Sys2Proof.Machine
end

section
/-! The write data buffer (R43, R50, R51, R73): every part of an event keeps it the beats of the waiting WRITEs. -/

namespace Sys2Proof.Machine

/-- The allocations as shares: each reference with its number of beats. -/
def State.wdbShares (s : State) : List (Nat × Nat) := s.wdb.map (fun a => (a.key, a.data.length))

/-- What the waiting WRITEs hold in the buffer. -/
def State.heldShares (s : State) : List (Nat × Nat) := s.stageShare ++ s.store.filterMap StoreRec.share

theorem State.BufferMatches.perm {s : State} (h : s.BufferMatches) : s.wdbShares.Perm s.heldShares := h.shares

/-- The shares of the store are those of its WRITE records, each under its drawing number. -/
theorem State.BufferMatches.share_of_record {s : State} (h : s.BufferMatches) {r : StoreRec} (hr : r ∈ s.store) :
    r.share = if r.kind = .write then some (r.draw, r.beats) else none := by
  unfold StoreRec.share
  rw [h.records r hr]
  split <;> rfl

theorem State.BufferMatches.mem_shares {s : State} (h : s.BufferMatches) {p : Nat × Nat}
    (hp : p ∈ s.store.filterMap StoreRec.share) : ∃ r ∈ s.store, r.draw = p.1 ∧ r.writeRef = some p.1 := by
  obtain ⟨r, hr, hs⟩ := List.mem_filterMap.mp hp
  refine ⟨r, hr, ?_⟩
  have href := h.records r hr
  rw [h.share_of_record hr] at hs
  split at hs
  · next hw =>
    cases hs
    exact ⟨rfl, by rw [href, if_pos hw]⟩
  · cases hs

/-- Where the buffer, the store and the issue stage stay, and no number is taken back, the buffer matches as before. -/
theorem State.BufferMatches.same {s t : State} (h : s.BufferMatches) (hw : t.wdb = s.wdb) (hi : t.issue.stage = s.issue.stage)
    (hst : t.store = s.store) (hd : s.up.draws ≤ t.up.draws) : t.BufferMatches := by
  have hshare : t.stageShare = s.stageShare := by unfold State.stageShare; rw [hi]
  refine ⟨?_, ?_, ?_, ?_⟩
  · rw [hw, hshare, hst]; exact h.shares
  · rw [hst]; exact h.records
  · rw [hi]; exact h.staged
  · rw [hshare, hst]
    exact fun p hp => ⟨(h.fresh p hp).1.trans_le hd, (h.fresh p hp).2⟩

/-- Beats freed by their references: the shares that stay are those of the requests that stay. -/
theorem State.BufferMatches.freed {s t : State} (h : s.BufferMatches) (keep : Nat → Bool)
    (hw : t.wdb = s.wdb.filter (fun a => keep a.key))
    (hstage : t.stageShare = s.stageShare.filter (fun p => keep p.1))
    (hstore : t.store.filterMap StoreRec.share = (s.store.filterMap StoreRec.share).filter (fun p => keep p.1)) :
    t.wdbShares.Perm t.heldShares := by
  have hwdb : t.wdbShares = s.wdbShares.filter (fun p => keep p.1) := by
    unfold State.wdbShares
    rw [hw, List.filter_map]
    rfl
  have hheld : t.heldShares = s.heldShares.filter (fun p => keep p.1) := by
    unfold State.heldShares
    rw [hstage, hstore, List.filter_append]
  rw [hwdb, hheld]
  exact h.perm.filter _

theorem stageShare_congr {s t : State} (h : t.issue.stage = s.issue.stage) : t.stageShare = s.stageShare := by
  unfold State.stageShare
  rw [h]

/-- Records that leave take their shares with them; those that stay keep what they share with their entries. -/
theorem State.BufferMatches.thinned {s t : State} (h : s.BufferMatches) (keep : Nat → Bool)
    (hw : t.wdb = s.wdb.filter (fun a => keep a.key)) (hi : t.issue.stage = s.issue.stage)
    (hstage : ∀ p ∈ s.stageShare, keep p.1 = true)
    (hstore : t.store.filterMap StoreRec.share = (s.store.filterMap StoreRec.share).filter (fun p => keep p.1))
    (hback : ∀ x ∈ t.store, ∃ r ∈ s.store, x.shared = r.shared ∧ x.writeRef = r.writeRef)
    (hd : t.up.draws = s.up.draws) : t.BufferMatches := by
  have hshare := stageShare_congr hi
  refine ⟨h.freed keep hw (by rw [hshare, List.filter_eq_self.mpr hstage]) hstore, fun x hx => ?_, ?_, fun p hp => ?_⟩
  · obtain ⟨r, hr, hsh, href⟩ := hback x hx
    have hk : x.kind = r.kind := congrArg Shared.kind hsh
    have hdraw : x.draw = r.draw := congrArg Shared.draw hsh
    rw [href, hk, hdraw]
    exact h.records r hr
  · rw [hi]
    exact h.staged
  · rw [hshare] at hp
    refine ⟨hd ▸ (h.fresh p hp).1, fun x hx => ?_⟩
    obtain ⟨r, hr, hsh, -⟩ := hback x hx
    have hdraw : x.draw = r.draw := congrArg Shared.draw hsh
    rw [hdraw]
    exact (h.fresh p hp).2 r hr

/-- A kept WRITE's beats join the buffer under its drawing number (R43, R50). -/
theorem State.BufferMatches.kept {s : State} (h : s.BufferMatches) (r : Request) (n : StreamId) : (s.keep r n).BufferMatches := by
  have hnew : (s.newRecord r n).writeRef = if (s.newRecord r n).kind = .write then some (s.newRecord r n).draw else none := by
    unfold State.newRecord
    cases r.kind <;> rfl
  rw [keep_fields]
  refine ⟨?_, fun x hx => ?_, h.staged, fun p hp => ⟨Nat.lt_succ_of_lt (h.fresh p hp).1, fun x hx => ?_⟩⟩
  · have hshares : (if r.kind = .write then s.wdb ++ [({ key := s.up.draws, data := fitBeats r.beats.toNat r.data } : Alloc)]
        else s.wdb).map (fun a => (a.key, a.data.length)) = s.wdbShares ++ (s.newRecord r n).share.toList := by
      unfold StoreRec.share
      rw [hnew, State.wdbShares]
      cases hk : r.kind <;> simp [State.newRecord, hk]
    have hheld : (s.store ++ [s.newRecord r n]).filterMap StoreRec.share =
        s.store.filterMap StoreRec.share ++ (s.newRecord r n).share.toList := by
      rw [List.filterMap_append]
      cases hs : (s.newRecord r n).share <;> simp [hs]
    show (List.map _ _).Perm (s.stageShare ++ _)
    rw [hshares, hheld, ← List.append_assoc]
    exact h.perm.append_right _
  · rcases List.mem_append.mp hx with hx | hx
    · exact h.records x hx
    · rw [List.mem_singleton.mp hx]
      exact hnew
  · rcases List.mem_append.mp hx with hx | hx
    · exact (h.fresh p hp).2 x hx
    · rw [List.mem_singleton.mp hx]
      exact (h.fresh p hp).1.ne'

/-- The drawing number of a record was drawn (R37, R46). -/
theorem State.StoreMatches.record_drawn {s : State} (h : s.StoreMatches) {r : StoreRec} (hr : r ∈ s.store) :
    r.draw < s.up.draws := by
  obtain ⟨m, hmem, -, hsh⟩ := h.entry_of_record hr
  have hdraw : m.draw = r.draw := congrArg Shared.draw hsh
  exact hdraw ▸ h.drawn m hmem

/-- The store around a record: the drawing numbers rise, so that only this record leaves with its drawing number. -/
theorem State.StoreMatches.around_record {s : State} (h : s.StoreMatches) {r : StoreRec} (hr : r ∈ s.store) :
    ∃ as bs, s.store = as ++ r :: bs ∧ s.store.filter (fun x => x.draw != r.draw) = as ++ bs := by
  obtain ⟨as, bs, hs⟩ := List.append_of_mem hr
  have hrise := h.store_rising
  rw [hs, List.pairwise_append, List.pairwise_cons] at hrise
  obtain ⟨-, ⟨hb, -⟩, hab⟩ := hrise
  refine ⟨as, bs, hs, ?_⟩
  have has : as.filter (fun x => x.draw != r.draw) = as :=
    List.filter_eq_self.mpr fun x hx => by simpa using (hab x hx r List.mem_cons_self).ne
  have hbs : bs.filter (fun x => x.draw != r.draw) = bs :=
    List.filter_eq_self.mpr fun x hx => by simpa using (hb x hx).ne'
  rw [hs, List.filter_append, List.filter_cons_of_neg (by simp), has, hbs]

/-- A granted WRITE takes its share from the store to the issue stage (R73, R78). -/
theorem State.BufferMatches.granted {s : State} (h : s.BufferMatches) (hm : s.StoreMatches) (hs : s.issue.stage = none)
    {r : StoreRec} (hr : r ∈ s.store) : (s.grantTo r).BufferMatches := by
  obtain ⟨as, bs, hstore, hleft⟩ := hm.around_record hr
  have hdraw := hm.record_drawn hr
  have hstage : (s.grantTo r).stageShare = r.share.toList := rfl
  have hempty : s.stageShare = [] := by unfold State.stageShare; rw [hs]
  have hreads : r.writeRef = none ↔ r.kind = .read := by
    rw [h.records r hr]
    cases r.kind <;> simp
  refine ⟨?_, ?_, ?_, ?_⟩
  · have hperm := h.perm
    unfold State.heldShares at hperm
    rw [hempty, List.nil_append, hstore, List.filterMap_append] at hperm
    rw [hstage, grantTo_fields]
    show s.wdbShares.Perm _
    refine hperm.trans ?_
    rw [hleft, List.filterMap_append]
    cases hsh : r.share with
    | none => rw [List.filterMap_cons_none hsh]; rfl
    | some p => rw [List.filterMap_cons_some hsh]; exact List.perm_middle
  · rw [grantTo_fields]
    exact fun x hx => h.records x (List.mem_of_mem_filter hx)
  · rw [grantTo_fields]
    rintro q ⟨⟩
    exact hreads
  · intro p hp
    rw [hstage, h.share_of_record hr] at hp
    split at hp
    · rw [List.mem_singleton.mp hp, grantTo_fields]
      exact ⟨hdraw, fun x hx => by simpa using (List.mem_filter.mp hx).2⟩
    · cases hp

/-- DOWN's take frees the share of the issue stage (R81). -/
theorem State.BufferMatches.issueTaken {s : State} (h : s.BufferMatches) : s.issueTake.BufferMatches := by
  rcases issueTake_cases s with ⟨-, ht⟩ | ⟨q, hq, ht⟩
  · rw [ht]; exact h
  · have hholds : ∀ a : Alloc, s.stageHolds a = (q.writeRef == some a.key) := fun a => by
      unfold State.stageHolds; rw [hq]
    have hshare : s.stageShare = (q.writeRef.map (fun k => (k, q.beats))).toList := by
      unfold State.stageShare; rw [hq]
    rw [ht]
    refine ⟨h.freed (fun k => !(q.writeRef == some k)) ?_ ?_ ?_, h.records, nofun, fun p hp => absurd hp List.not_mem_nil⟩
    · exact List.filter_congr fun a _ => by rw [hholds]
    · rw [hshare]
      cases q.writeRef <;> simp [State.stageShare]
    · refine (List.filter_eq_self.mpr fun p hp => ?_).symm
      obtain ⟨r, hr, hd, -⟩ := h.mem_shares hp
      cases hk : q.writeRef with
      | none => rfl
      | some k =>
        have hne := (h.fresh (k, q.beats) (by rw [hshare, hk]; exact List.mem_singleton_self _)).2 r hr
        simpa using fun heq : k = p.1 => hne (hd.trans heq.symm)

@[simp] theorem agedBy_share (sel : StoreRec → Bool) (p : StoreRec × Bool) :
    (StoreRec.agedBy sel p).share = p.1.share := by
  unfold StoreRec.agedBy
  split <;> rfl

/-- The records that a closure ages hold what they held. -/
theorem filterMap_share_aged (sel seed : StoreRec → Bool) (l : List StoreRec) :
    ((urgencyClosure seed l).map (StoreRec.agedBy sel)).filterMap StoreRec.share = l.filterMap StoreRec.share := by
  have hshare : StoreRec.share ∘ StoreRec.agedBy sel = StoreRec.share ∘ Prod.fst := funext fun p => agedBy_share sel p
  rw [List.filterMap_map, hshare, ← List.filterMap_map, urgencyClosure_fst]

/-- An aged record is one of the store but for its age and its mark. -/
theorem exists_of_mem_aged {sel seed : StoreRec → Bool} {l : List StoreRec} {x : StoreRec}
    (hx : x ∈ (urgencyClosure seed l).map (StoreRec.agedBy sel)) :
    ∃ r ∈ l, x.shared = r.shared ∧ x.writeRef = r.writeRef := by
  obtain ⟨p, hp, rfl⟩ := List.mem_map.mp hx
  exact ⟨p.1, mem_of_mem_urgencyClosure hp, agedBy_shared sel p, agedBy_writeRef sel p⟩

theorem mem_of_mem_goneBy {s : State} {sel : StoreRec → Bool} {r : StoreRec} (h : r ∈ s.goneBy sel) : r ∈ s.store :=
  List.mem_of_mem_filter h

/-- The references that the expiries of an event free are drawing numbers of records that leave. -/
theorem State.BufferMatches.gone_draw {s : State} (h : s.BufferMatches) {sel : StoreRec → Bool} {k : Nat}
    (hk : (s.goneBy sel).any (fun r => r.writeRef == some k) = true) : ∃ r ∈ s.goneBy sel, r.draw = k := by
  obtain ⟨r, hr, href⟩ := List.any_eq_true.mp hk
  refine ⟨r, hr, ?_⟩
  rw [beq_iff_eq, h.records r (mem_of_mem_goneBy hr)] at href
  split at href
  · exact Option.some.inj href
  · cases href

/-- A WRITE's reference is freed exactly if it leaves. -/
theorem State.BufferMatches.gone_iff {s : State} (h : s.BufferMatches) (hm : s.StoreMatches) (sel : StoreRec → Bool)
    {r : StoreRec} (hr : r ∈ s.store) (hw : r.kind = .write) :
    (s.goneBy sel).any (fun x => x.writeRef == some r.draw) = s.expiring sel .drop r := by
  rw [Bool.eq_iff_iff]
  constructor
  · intro hany
    obtain ⟨x, hx, hd⟩ := h.gone_draw hany
    obtain ⟨hx, hexp⟩ := List.mem_filter.mp hx
    rwa [← hm.eq_of_draw_eq hx hr hd]
  · intro hexp
    have href : r.writeRef = some r.draw := by rw [h.records r hr, if_pos hw]
    exact List.any_eq_true.mpr ⟨r, List.mem_filter.mpr ⟨hr, hexp⟩, beq_iff_eq.mpr href⟩

/-- The records that stay at the expiries of an event hold the shares that stay. -/
theorem State.BufferMatches.shares_left {s : State} (h : s.BufferMatches) (hm : s.StoreMatches) (sel : StoreRec → Bool) :
    (s.store.filter (fun r => !s.expiring sel .drop r)).filterMap StoreRec.share =
      (s.store.filterMap StoreRec.share).filter (fun p => !(s.goneBy sel).any (fun r => r.writeRef == some p.1)) := by
  rw [List.filterMap_filter, List.filter_filterMap]
  refine List.filterMap_congr fun r hr => ?_
  rw [h.share_of_record hr]
  by_cases hw : r.kind = .write
  · rw [if_pos hw, Option.filter_some, h.gone_iff hm sel hr hw]
  · rw [if_neg hw, Option.filter_none, ite_self]

/-- The DROP expiries of an event free the shares of the records that leave (R51, R113). -/
theorem State.BufferMatches.aged {e : Ev} (h : e.st.BufferMatches) (hm : e.st.StoreMatches) (sel : StoreRec → Bool) :
    (e.ageRecords sel).st.BufferMatches := by
  rw [ageRecords_fields]
  refine h.thinned (fun k => !(e.st.goneBy sel).any (fun r => r.writeRef == some k)) rfl rfl (fun p hp => ?_)
    ((filterMap_share_aged _ _ _).trans (h.shares_left hm sel)) (fun x hx => ?_) rfl
  · rw [Bool.not_eq_true']
    by_contra hk
    obtain ⟨r, hr, hd⟩ := h.gone_draw (Bool.eq_true_of_not_eq_false hk)
    exact (h.fresh p hp).2 r (mem_of_mem_goneBy hr) hd
  · obtain ⟨r, hr, hsr⟩ := exists_of_mem_aged hx
    exact ⟨r, List.mem_of_mem_filter hr, hsr⟩

/-- The start of a warm reset frees all beats but those of the issue stage (R51, R162). -/
theorem State.BufferMatches.warmStarted {s : State} (h : s.BufferMatches) : s.warmStart.BufferMatches := by
  rw [warmStart_fields]
  refine h.thinned (fun k => s.stageShare.any (fun p => p.1 == k)) ?_ rfl
    (fun p hp => List.any_eq_true.mpr ⟨p, hp, beq_self_eq_true p.1⟩) ?_ (fun x hx => absurd hx List.not_mem_nil) rfl
  · refine List.filter_congr fun a _ => ?_
    unfold State.stageHolds State.stageShare
    cases s.issue.stage with
    | none => rfl
    | some q => cases hq : q.writeRef <;> simp [hq]
  · refine (List.filter_eq_nil_iff.mpr fun p hp hany => ?_).symm
    obtain ⟨q, hq, hk⟩ := List.any_eq_true.mp hany
    obtain ⟨r, hr, hd, -⟩ := h.mem_shares hp
    exact (h.fresh q hq).2 r hr (hd.trans (beq_iff_eq.mp hk).symm)

theorem Move.bufferMatches {fin : Bool} {s t : State} (hmove : Move fin s t) (hm : s.StoreMatches) (h : s.BufferMatches) :
    t.BufferMatches := by
  cases hmove with
  | other _ _ ht => rw [ht]; exact h.same rfl rfl rfl le_rfl
  | refused _ r stream => exact h.same rfl rfl rfl (Nat.le_succ _)
  | kept _ r => exact h.kept r _
  | localAnswered _ f hf =>
    obtain ⟨-, -, -, status, ghost, hs⟩ := localChoice_some hf
    rw [localAnswer_fields hs]
    exact h.same rfl rfl rfl le_rfl
  | granted _ r hs hg => exact h.granted hm hs (hm.eligible_of_grantChoice hg).1
  | issueTaken => exact h.issueTaken
  | aged e sel => exact h.aged hm sel
  | drainTimedOut e => rw [drainTimeout_fields]; exact h.same rfl rfl rfl le_rfl
  | warmStarted => exact h.warmStarted
  | warmCompleted _ hd =>
    obtain ⟨-, -, hstage, -⟩ := (drained_iff s).mp hd
    rw [warmComplete_fields]
    exact h.same rfl hstage.symm rfl le_rfl
  | _ => exact h.same rfl rfl rfl le_rfl

theorem bufferMatches_cold (s : State) : s.coldReset.BufferMatches := by
  rw [coldReset_fields]
  exact ⟨List.Perm.nil, fun r hr => absurd hr List.not_mem_nil, nofun, fun p hp => absurd hp List.not_mem_nil⟩

/-- The beats in use are the sum of the shares held (R50). -/
theorem State.BufferMatches.exact {s : State} (h : s.BufferMatches) : s.bufferExact := by
  have hused : s.bufferUsed = (s.wdbShares.map Prod.snd).sum := by
    unfold State.bufferUsed State.wdbShares
    rw [List.map_map]
    rfl
  have hstage : (s.stageShare.map Prod.snd).sum = s.stageBeats := by
    unfold State.stageShare State.stageBeats
    cases hq : s.issue.stage with
    | none => rfl
    | some q =>
      have hreads := h.staged q hq
      dsimp only
      cases href : q.writeRef with
      | none =>
        rw [hreads.mp href]
        rfl
      | some k =>
        have hk : q.kind = .write := by
          cases hk : q.kind
          · rw [hreads.mpr hk] at href; cases href
          · rfl
        rw [hk]
        rfl
  have hstore : ∀ l : List StoreRec, (∀ r ∈ l, r ∈ s.store) →
      ((l.filterMap StoreRec.share).map Prod.snd).sum = (l.map StoreRec.writeBeats).sum := fun l => by
    induction l with
    | nil => exact fun _ => rfl
    | cons r l ih =>
      intro hl
      have hr := h.share_of_record (hl r List.mem_cons_self)
      have ih' := ih fun x hx => hl x (List.mem_cons_of_mem _ hx)
      rw [List.map_cons, List.sum_cons, ← ih', StoreRec.writeBeats]
      split
      · next hw =>
        rw [if_pos hw] at hr
        rw [List.filterMap_cons_some hr, List.map_cons, List.sum_cons]
      · next hw =>
        rw [if_neg hw] at hr
        rw [List.filterMap_cons_none hr, Nat.zero_add]
  have hsum := (h.perm.map Prod.snd).sum_eq
  unfold State.heldShares at hsum
  rw [List.map_append, List.sum_append, hstage, hstore s.store fun _ hr => hr] at hsum
  unfold State.bufferExact
  rw [hused, hsum, Nat.add_comm]

end Sys2Proof.Machine
end

section
/-! The laws of the pools, of the order table and of urgency, from what every part of an event keeps. -/

namespace Sys2Proof.Machine

/-! The beginning of a REFCLK period changes none of what these laws speak of (R119). -/

theorem State.WithinCapacity.nextPeriod {s : State} (h : s.WithinCapacity) : s.nextPeriod.WithinCapacity :=
  ⟨h.store, h.order, h.buffer⟩

theorem State.StoreMatches.nextPeriod {s : State} (h : s.StoreMatches) : s.nextPeriod.StoreMatches :=
  ⟨h.correspond, h.rising, h.drawn⟩

theorem State.BufferMatches.nextPeriod {s : State} (h : s.BufferMatches) : s.nextPeriod.BufferMatches :=
  ⟨h.shares, h.records, h.staged, h.fresh⟩

end Sys2Proof.Machine

namespace Sys2Proof.Proofs

open Sys2Proof Sys2Proof.Machine

/-- Settles O54: no part of an event takes a place beyond a pool's last one (R46, R50, R85). -/
theorem stepsKeepTheCapacities : Obligations.StepsKeepTheCapacities :=
  fun _ _ hcap h => step_keeps (fun _ _ hm => hm.withinCapacity) (fun _ h => h.nextPeriod) withinCapacity_cold h hcap

/-- Settles O55: the correspondence is kept by itself, and the issue counts along with it. -/
theorem stepsKeepTheCorrespondence : Obligations.StepsKeepTheCorrespondence := by
  refine fun s s' hm h => ⟨step_keeps (fun _ _ hmv => hmv.storeMatches) (fun _ h => h.nextPeriod) storeMatches_cold h hm, fun hc => ?_⟩
  exact (step_keeps (P := fun s => s.StoreMatches ∧ s.issueCountsExact)
    (fun _ _ hmv hs => ⟨hmv.storeMatches hs.1, hmv.issueCountsExact hs.1 hs.2⟩) (fun _ h => ⟨h.1.nextPeriod, h.2⟩)
    (fun s => ⟨storeMatches_cold s, issueCountsExact_cold s⟩) h ⟨hm, hc⟩).2

/-- Settles O56: the allocations are those of the waiting WRITEs, with which the beats in use are their sum. -/
theorem stepsKeepTheBufferUse : Obligations.StepsKeepTheBufferUse := by
  refine ⟨fun s s' hm hb h => ?_, fun s hb => hb.exact⟩
  exact (step_keeps (P := fun s => s.StoreMatches ∧ s.BufferMatches)
    (fun _ _ hmv hs => ⟨hmv.storeMatches hs.1, hmv.bufferMatches hs.1 hs.2⟩) (fun _ h => ⟨h.1.nextPeriod, h.2.nextPeriod⟩)
    (fun s => ⟨storeMatches_cold s, bufferMatches_cold s⟩) h ⟨hm, hb⟩).2

/-- Settles O57: by the correspondence a grant takes the first QUEUED entry of its source. -/
theorem stepsKeepTheListOrder : Obligations.StepsKeepTheListOrder := by
  intro s s' hm hl h
  exact (step_keeps (P := fun s => s.StoreMatches ∧ s.listsOrdered)
    (fun _ _ hmv hs => ⟨hmv.storeMatches hs.1, hmv.listsOrdered hs.1 hs.2⟩) (fun _ h => ⟨h.1.nextPeriod, h.2⟩)
    (fun s => ⟨storeMatches_cold s, listsOrdered_cold s⟩) h ⟨hm, hl⟩).2

/-- Settles O58: the records expired at one tick are marked with their closure. -/
theorem stepsKeepTheUrgencyClosed : Obligations.StepsKeepTheUrgencyClosed :=
  fun _ _ hc he h => step_keeps (P := UrgencyLaw) (fun _ _ hm => hm.urgencyLaw) (fun _ h => h) urgencyLaw_cold h ⟨hc, he⟩

end Sys2Proof.Proofs
end

section
/-! The law of the handshake queue (R148): each operation of the notice unit keeps it, and so does every part of an event. -/

namespace Sys2Proof.Machine

/-! ### Causes of a source (R139) -/

theorem ofSource_zero (x : NoticeId) : ofSource x 0 := BitVec.zero_and

theorem ofSource_or {x : NoticeId} {a b : CauseSet} (ha : ofSource x a) (hb : ofSource x b) : ofSource x (a ||| b) := by
  unfold ofSource at *
  rw [BitVec.and_comm, BitVec.and_or_distrib_left, BitVec.and_comm _ a, BitVec.and_comm _ b, ha, hb]
  rfl

theorem ofSource_and {x : NoticeId} {a : CauseSet} (ha : ofSource x a) (b : CauseSet) : ofSource x (a &&& b) := by
  unfold ofSource at *
  rw [BitVec.and_comm a b, BitVec.and_assoc, ha]
  exact BitVec.and_zero

theorem ofSource_masked (x : NoticeId) (b : CauseSet) : ofSource x (b &&& causeMask x) := by
  unfold ofSource
  rw [BitVec.and_assoc, BitVec.and_not_self]
  exact BitVec.and_zero

theorem Cause.bit_ne_zero (c : Cause) : c.bit ≠ 0 := by cases c <;> decide

theorem or_ne_zero_of_left {a b : CauseSet} (h : a ≠ 0) : a ||| b ≠ 0 := fun hab => h (BitVec.or_eq_zero_iff.mp hab).1

/-! ### The operations of the notice unit -/

theorem timeOut_nil {nt : Notices} (hq : nt.queue = []) :
    nt.timeOut = { nt with queue := nt.queue.tail, port := .idle, hold := true, timer := 0 }.occur ⟨21, .timeout⟩ := by
  unfold Notices.timeOut
  rw [hq]

theorem timeOut_cons {nt : Notices} {e : HsEntry} {q : List HsEntry} (hq : nt.queue = e :: q) :
    nt.timeOut =
      { nt.join e.source e.causes with queue := nt.queue.tail, port := .idle, hold := true, timer := 0 }.occur
        ⟨21, .timeout⟩ := by
  unfold Notices.timeOut
  rw [hq]

theorem acknowledge_nil {nt : Notices} (hq : nt.queue = []) :
    nt.acknowledge = { nt with queue := nt.queue.tail, port := .recovering, timer := 0 } := by
  unfold Notices.acknowledge
  rw [hq]

theorem acknowledge_cons {nt : Notices} {e : HsEntry} {q : List HsEntry} (hq : nt.queue = e :: q) :
    nt.acknowledge =
      { (if (cell nt.sources e.source).notifyAfter then nt.join e.source e.causes else nt) with
        queue := nt.queue.tail, port := .recovering, timer := 0 } := by
  unfold Notices.acknowledge
  rw [hq]

namespace Notices.Lawful

variable {nt : Notices}

/-- Other cause sets under the same queue and port. -/
theorem of_causes (h : nt.Lawful) {v : Vector NoticeSource 24} (hv : ∀ x, ofSource x (cell v x).causes) :
    { nt with sources := v }.Lawful :=
  ⟨h.length, h.distinct, h.recorded, h.presenting, h.held, hv⟩

/-- One source's record rewritten, its cause set still its own. -/
theorem of_source (h : nt.Lawful) (x : NoticeId) {f : NoticeSource → NoticeSource}
    (hf : ∀ q, ofSource x q.causes → ofSource x (f q).causes) : { nt with sources := updAt nt.sources x f }.Lawful := by
  refine h.of_causes fun y => ?_
  rw [cell_updAt]
  split
  · next heq => subst heq; exact hf _ (h.causes _)
  · exact h.causes y

theorem join (h : nt.Lawful) {x : NoticeId} {cs : CauseSet} (hcs : ofSource x cs) : (nt.join x cs).Lawful :=
  h.of_source x fun _ hq => ofSource_or hq hcs

theorem merge (h : nt.Lawful) {o : Occurrence} (ho : ofSource o.source o.cause.bit) : (nt.merge o).Lawful where
  length := by
    show (List.map _ nt.queue).length ≤ _
    rw [List.length_map]
    exact h.length
  distinct := by
    have hsame : (nt.merge o).queue.map (fun e => e.source) = nt.queue.map (fun e => e.source) := by
      show (List.map _ nt.queue).map _ = _
      rw [List.map_map]
      exact List.map_congr_left fun e _ => by dsimp only [Function.comp]; split <;> rfl
    rw [hsame]
    exact h.distinct
  recorded := by
    intro e he
    obtain ⟨e₀, he₀, rfl⟩ := List.mem_map.mp he
    obtain ⟨hne, hof⟩ := h.recorded e₀ he₀
    split
    · next heq => exact ⟨or_ne_zero_of_left hne, ofSource_or hof (by rw [beq_iff_eq.mp heq]; exact ho)⟩
    · exact ⟨hne, hof⟩
  presenting := fun hp hq => h.presenting hp (List.map_eq_nil_iff.mp hq)
  held := h.held
  causes := h.causes

theorem append (h : nt.Lawful) {o : Occurrence} (ho : ofSource o.source o.cause.bit) (hq : nt.queued o.source = false)
    (hl : nt.queue.length < Config.handshakeCapacity) : (nt.append o).Lawful where
  length := by
    show (nt.queue ++ [_]).length ≤ _
    rw [List.length_append, List.length_singleton]
    exact hl
  distinct := by
    show ((nt.queue ++ [_]).map _).Nodup
    rw [List.map_append, List.nodup_append]
    refine ⟨h.distinct, List.nodup_singleton _, fun x hx y hy hxy => ?_⟩
    obtain ⟨e, he, rfl⟩ := List.mem_map.mp hx
    have hy' : y = o.source := List.mem_singleton.mp hy
    have hqueued : nt.queued o.source = true := List.any_eq_true.mpr ⟨e, he, beq_iff_eq.mpr (hxy.trans hy')⟩
    exact Bool.noConfusion (hq.symm.trans hqueued)
  recorded := fun e he => (List.mem_append.mp he).elim (h.recorded e)
    fun he => by rw [List.mem_singleton.mp he]; exact ⟨o.cause.bit_ne_zero, ho⟩
  presenting := fun _ hnil => List.append_ne_nil_of_right_ne_nil _ (List.cons_ne_nil _ _) hnil
  held := h.held
  causes := h.causes

theorem overflowed (h : nt.Lawful) : nt.overflowed.Lawful := by
  have ho : ofSource 21 Cause.hsOverflow.bit := ofSource_of_check rfl
  unfold Notices.overflowed
  dsimp only
  split
  · exact h.join ho
  · split
    · exact h.merge (o := ⟨21, .hsOverflow⟩) ho
    · exact h.join ho

theorem toHandshake (h : nt.Lawful) {o : Occurrence} (ho : ofSource o.source o.cause.bit) : (nt.toHandshake o).Lawful := by
  unfold Notices.toHandshake
  split
  · exact h.merge ho
  · next hq =>
    split
    · next hl => exact h.append ho (Bool.eq_false_iff.mpr hq) hl
    · exact (h.join ho).overflowed

theorem occur (h : nt.Lawful) {o : Occurrence} (ho : ofSource o.source o.cause.bit) : (nt.occur o).Lawful := by
  unfold Notices.occur
  split
  · exact h.join ho
  · split
    · exact (h.join ho).toHandshake ho
    · exact h.toHandshake ho

/-- A port that presents nothing, with a hold only in IDLE. -/
theorem of_port (h : nt.Lawful) {p : PortState} {b : Bool} {k : Nat} (hp : p ≠ .presenting) (hb : b = true → p = .idle) :
    { nt with port := p, hold := b, timer := k }.Lawful :=
  ⟨h.length, h.distinct, h.recorded, fun heq => absurd heq hp, hb, h.causes⟩

/-- The head leaves, and the port presents nothing. -/
theorem pop (h : nt.Lawful) {p : PortState} {b : Bool} {k : Nat} (hp : p ≠ .presenting) (hb : b = true → p = .idle) :
    { nt with queue := nt.queue.tail, port := p, hold := b, timer := k }.Lawful where
  length := (List.tail_sublist _).length_le.trans h.length
  distinct := h.distinct.sublist ((List.tail_sublist _).map _)
  recorded := fun e he => h.recorded e (List.mem_of_mem_tail he)
  presenting := fun heq => absurd heq hp
  held := hb
  causes := h.causes

theorem present (h : nt.Lawful) : nt.present.Lawful := by
  unfold Notices.present
  split
  · next hp =>
    unfold Notices.presentable at hp
    simp only [Bool.and_eq_true, Bool.not_eq_true', List.isEmpty_eq_false_iff] at hp
    obtain ⟨⟨-, hhold⟩, hne⟩ := hp
    exact ⟨h.length, h.distinct, h.recorded, fun _ => hne, fun ht => Bool.noConfusion (ht.symm.trans hhold), h.causes⟩
  · exact h

theorem timeOut (h : nt.Lawful) : nt.timeOut.Lawful := by
  have ho : ofSource 21 Cause.timeout.bit := ofSource_of_check rfl
  cases hq : nt.queue with
  | nil =>
    rw [timeOut_nil hq]
    exact (h.pop (by decide) fun _ => rfl).occur ho
  | cons e q =>
    rw [timeOut_cons hq]
    exact ((h.join (h.recorded e (hq ▸ List.mem_cons_self)).2).pop (by decide) fun _ => rfl).occur ho

/-- Another count, and the hold clear. -/
theorem counted (h : nt.Lawful) (k : Nat) : { nt with timer := k, hold := false }.Lawful :=
  ⟨h.length, h.distinct, h.recorded, h.presenting, fun hf => Bool.noConfusion hf, h.causes⟩

theorem ageTick (h : nt.Lawful) : nt.ageTick.Lawful := by
  unfold Notices.ageTick
  split
  · split
    · exact h.timeOut
    · exact h.counted _
  · exact h.counted nt.timer
  · exact h.counted nt.timer

theorem acknowledge (h : nt.Lawful) (hp : nt.port = .presenting) : nt.acknowledge.Lawful := by
  have hhold : nt.hold = true → PortState.recovering = .idle := fun ht => by have := h.held ht; rw [hp] at this; cases this
  cases hq : nt.queue with
  | nil =>
    rw [acknowledge_nil hq]
    exact h.pop (by decide) hhold
  | cons e q =>
    rw [acknowledge_cons hq]
    split
    · exact (h.join (h.recorded e (hq ▸ List.mem_cons_self)).2).pop (by decide) hhold
    · exact h.pop (by decide) hhold

theorem evackFall (h : nt.Lawful) : nt.evackFall.Lawful := by
  unfold Notices.evackFall
  split
  · exact (h.of_port (p := .idle) (by decide) fun _ => rfl).present
  · exact h
  · exact h

theorem run (h : nt.Lawful) {j : NoticeJob} (hj : j.Proper) : (nt.run j).Lawful := by
  cases j with
  | occur o => exact (h.occur hj).present
  | ageTick => exact h.ageTick.present

theorem runAll (h : nt.Lawful) {jobs : List NoticeJob} (hj : ∀ j ∈ jobs, j.Proper) : (nt.runAll jobs).Lawful := by
  have hfold : ∀ (l : List NoticeJob) (nt : Notices), nt.Lawful → (∀ j ∈ l, j.Proper) → (l.foldl Notices.run nt).Lawful := by
    intro l
    induction l with
    | nil => exact fun _ h _ => h
    | cons j l ih =>
      exact fun nt h hj => ih _ (h.run (hj j List.mem_cons_self)) fun k hk => hj k (List.mem_cons_of_mem _ hk)
  exact hfold jobs _ h.present hj

theorem write (h : nt.Lawful) {f : NoticeSetting} {v : Nat} {nt' : Notices} (hw : nt.write f v = some nt') :
    nt'.Lawful := by
  unfold Notices.write at hw
  cases f <;> (simp only [Option.map_eq_some_iff] at hw; obtain ⟨y, -, rfl⟩ := hw)
  case threshold => exact ⟨h.length, h.distinct, h.recorded, h.presenting, h.held, h.causes⟩
  case clearStyle => exact ⟨h.length, h.distinct, h.recorded, h.presenting, h.held, h.causes⟩
  all_goals exact h.of_source _ fun _ hq => hq

theorem writeCauses (h : nt.Lawful) (x : NoticeId) (v : Word) : (nt.writeCauses x v).Lawful := by
  unfold Notices.writeCauses
  split
  · exact h.of_source x fun _ hq => ofSource_and hq _
  · exact h.of_source x fun _ _ => ofSource_masked x _

end Notices.Lawful

theorem warmStart_lawful (nt : Notices) : nt.warmStart.Lawful where
  length := Nat.zero_le _
  distinct := List.nodup_nil
  recorded := fun _ he => absurd he List.not_mem_nil
  presenting := fun hp => PortState.noConfusion hp
  held := fun _ => rfl
  causes := fun x => by
    unfold Notices.warmStart
    dsimp only
    rw [cell_mapAll]
    exact ofSource_zero x

theorem notices_cold_lawful : Notices.cold.Lawful where
  length := Nat.zero_le _
  distinct := List.nodup_nil
  recorded := fun _ he => absurd he List.not_mem_nil
  presenting := fun hp => PortState.noConfusion hp
  held := fun _ => rfl
  causes := fun x => by
    unfold Notices.cold
    dsimp only
    rw [cell_replicate]
    exact ofSource_zero x

theorem NoticeMove.lawful {nt nt' : Notices} (hmove : NoticeMove nt nt') (h : nt.Lawful) : nt'.Lawful := by
  cases hmove with
  | taken jobs hj => exact h.runAll hj
  | presented => exact h.present
  | acknowledged hp => exact h.acknowledge hp
  | evackFell => exact h.evackFall
  | written f v _ hw => exact h.write hw
  | causesWritten x v => exact h.writeCauses x v
  | limit l => exact ⟨h.length, h.distinct, h.recorded, h.presenting, h.held, h.causes⟩

/-- Every part of an event leaves the notice unit, moves it, or is the start of a warm reset. -/
theorem Move.nt_cases {fin : Bool} {s t : State} (hmove : Move fin s t) : t.nt = s.nt ∨ NoticeMove s.nt t.nt ∨ t.nt = s.nt.warmStart := by
  cases hmove with
  | other _ _ h => rw [h]; exact .inl rfl
  | notices _ nt h => exact .inr (.inl h)
  | warmStarted _ => exact .inr (.inr rfl)
  | kept _ r h hk => left; rw [keep_fields]
  | localAnswered _ f h => left; obtain ⟨S, -, -, status, ghost, hf⟩ := localChoice_some h; rw [localAnswer_fields hf]
  | granted _ r hs h => left; rw [grantTo_fields]
  | issueTaken _ => left; rcases issueTake_cases s with ⟨-, h⟩ | ⟨q, -, h⟩ <;> rw [h]
  | aged e sel => left; rw [ageRecords_fields]
  | drainTimedOut e h => left; rw [drainTimeout_fields]
  | warmCompleted _ h => left; rw [warmComplete_fields]
  | _ => exact .inl rfl

theorem Move.noticesLawful {fin : Bool} {s t : State} (hmove : Move fin s t) (h : s.nt.Lawful) : t.nt.Lawful := by
  rcases hmove.nt_cases with heq | hm | heq
  · exact heq ▸ h
  · exact hm.lawful h
  · exact heq ▸ warmStart_lawful _

end Sys2Proof.Machine

namespace Sys2Proof.Proofs

open Sys2Proof Sys2Proof.Machine

/-- Settles O53: each operation of the notice unit keeps the law, given causes raised at their own sources. -/
theorem stepsKeepTheHandshakeQueue : Obligations.StepsKeepTheHandshakeQueue :=
  fun _ _ hl h => step_keeps (P := fun s => s.nt.Lawful) (fun _ _ hm => hm.noticesLawful) (fun _ h => h)
    (fun _ => notices_cold_lawful) h hl

end Sys2Proof.Proofs
end

section
/-! The ranges (R1, R14, R16, R24, R54, R120, R165), and the divider of the timebase (R119). -/

namespace Sys2Proof.Machine

/-! ### Parameters and credit (R14, R16, R24) -/

theorem numUpTo_some {n v x : Nat} (h : numUpTo n v = some x) : x = v ∧ v ≤ n := by
  unfold numUpTo at h
  split at h
  · next hle => cases h; exact ⟨rfl, hle⟩
  · cases h

/-- A parameter that takes a number stays in its range. -/
theorem Params.InRange.write {q q' : Params} {p : Param} {v : Nat} (h : q.InRange) (hw : q.write p v = some q') :
    q'.InRange := by
  obtain ⟨hstart, hend, hreload, hcap, hhold, hissue, hage⟩ := h
  unfold Params.write at hw
  cases p <;> (simp only [Option.map_eq_some_iff] at hw; obtain ⟨x, hx, rfl⟩ := hw)
  case windowStart => obtain ⟨rfl, hv⟩ := numUpTo_some hx; exact ⟨hv, hend, hreload, hcap, hhold, hissue, hage⟩
  case windowEnd => obtain ⟨rfl, hv⟩ := numUpTo_some hx; exact ⟨hstart, hv, hreload, hcap, hhold, hissue, hage⟩
  case reload => obtain ⟨rfl, hv⟩ := numUpTo_some hx; exact ⟨hstart, hend, hv, hcap, hhold, hissue, hage⟩
  case cap => obtain ⟨rfl, hv⟩ := numUpTo_some hx; exact ⟨hstart, hend, hreload, hv, hhold, hissue, hage⟩
  case holdLimit => obtain ⟨rfl, hv⟩ := numUpTo_some hx; exact ⟨hstart, hend, hreload, hcap, hv, hissue, hage⟩
  case issueLimit => obtain ⟨rfl, hv⟩ := numUpTo_some hx; exact ⟨hstart, hend, hreload, hcap, hhold, hv, hage⟩
  case ageLimit => obtain ⟨rfl, hv⟩ := numUpTo_some hx; exact ⟨hstart, hend, hreload, hcap, hhold, hissue, hv⟩
  all_goals exact ⟨hstart, hend, hreload, hcap, hhold, hissue, hage⟩

theorem apply_inRange {st : Stream} (h : st.InRange) : st.apply.InRange := by
  unfold Stream.apply
  split
  · exact ⟨h.pend, h.pend, h.credit⟩
  · exact h

theorem replenish_inRange {st : Stream} (h : st.InRange) : st.replenish.InRange := by
  refine ⟨h.live, h.pend, ?_⟩
  unfold Stream.replenish
  dsimp only
  split
  · exact h.live.reload
  · exact (Nat.min_le_right _ _).trans (Nat.max_le.mpr ⟨h.live.cap, h.live.reload⟩)

theorem StreamMove.inRange {st st' : Stream} (hmove : StreamMove st st') (h : st.InRange) : st'.InRange := by
  cases hmove with
  | counted mode noted counters => exact ⟨h.live, h.pend, h.credit⟩
  | applied => exact apply_inRange h
  | discarded => exact ⟨h.live, h.live, h.credit⟩
  | replenished => exact replenish_inRange h
  | written p v q hw => exact ⟨h.live, h.pend.write hw, h.credit⟩

/-- While pending-valid is clear the stream's pending set is a copy of the live set (R16). -/
def Stream.PendingCopies (st : Stream) : Prop := st.pendingValid = false → st.pend = st.live

theorem apply_pendingCopies {st : Stream} (h : st.PendingCopies) : st.apply.PendingCopies := by
  unfold Stream.apply
  split
  · exact fun _ => rfl
  · exact h

theorem StreamMove.pendingCopies {st st' : Stream} (hmove : StreamMove st st') (h : st.PendingCopies) :
    st'.PendingCopies := by
  cases hmove with
  | counted mode noted counters => exact h
  | applied => exact apply_pendingCopies h
  | discarded => exact fun _ => rfl
  | replenished => exact h
  | written p v q hw => exact fun hp => Bool.noConfusion hp

/-- The parameters of a stream are another's and its credit is no greater, or its reload. -/
structure SameParams (st st' : Stream) : Prop where
  live : st'.live = st.live
  pend : st'.pend = st.pend
  pendingValid : st'.pendingValid = st.pendingValid
  credit : st'.credit ≤ st.credit ∨ st'.credit = st.live.reload

theorem SameParams.inRange {st st' : Stream} (h : SameParams st st') (hr : st.InRange) : st'.InRange := by
  refine ⟨h.live ▸ hr.live, h.pend ▸ hr.pend, ?_⟩
  rcases h.credit with hc | hc
  · exact hc.trans hr.credit
  · rw [hc]; exact hr.live.reload

theorem SameParams.pendingCopies {st st' : Stream} (h : SameParams st st') (hp : st.PendingCopies) :
    st'.PendingCopies := by
  intro hv
  rw [h.pend, h.live]
  exact hp (h.pendingValid ▸ hv)

theorem charge_sameParams (st : Stream) (regulated : Bool) (b : Nat) : SameParams st (st.charge regulated b) := by
  unfold Stream.charge
  dsimp only
  split
  · exact ⟨rfl, rfl, rfl, .inl (Nat.sub_le _ _)⟩
  · exact ⟨rfl, rfl, rfl, .inl le_rfl⟩

/-- What a part of an event can do at a stream. -/
theorem Move.stream_cases {fin : Bool} {s t : State} (hmove : Move fin s t) (n : StreamId) :
    StreamMove (s.stream n) (t.stream n) ∨ SameParams (s.stream n) (t.stream n) := by
  have hsame : t.streams = s.streams → StreamMove (s.stream n) (t.stream n) := fun h => by
    unfold State.stream; rw [h]; exact .refl _
  cases hmove with
  | other _ _ h => exact .inl (hsame (by rw [h]))
  | streams _ v h => exact .inl (h n)
  | kept _ r h hk => exact .inl (hsame (by rw [keep_fields]))
  | localAnswered _ f h =>
    obtain ⟨S, -, -, status, ghost, hf⟩ := localChoice_some h
    exact .inl (hsame (by rw [localAnswer_fields hf]))
  | memoryAnsweredOf _ r m a k ok h hm =>
    right
    unfold State.stream State.onStream State.setStreams
    dsimp only
    rw [cell_updAt]
    split
    · next heq => subst heq; exact ⟨rfl, rfl, rfl, .inl le_rfl⟩
    · exact ⟨rfl, rfl, rfl, .inl le_rfl⟩
  | granted _ r hs h =>
    right
    rw [grantTo_fields]
    unfold State.stream
    dsimp only
    rw [cell_updAt]
    split
    · next heq => subst heq; exact charge_sameParams _ _ _
    · exact ⟨rfl, rfl, rfl, .inl le_rfl⟩
  | issueTaken _ => refine .inl (hsame ?_); rcases issueTake_cases s with ⟨-, h⟩ | ⟨q, -, h⟩ <;> rw [h]
  | aged e sel =>
    right
    rw [ageRecords_fields]
    unfold State.stream
    dsimp only
    rw [cell_mapAll]
    exact ⟨rfl, rfl, rfl, .inl le_rfl⟩
  | drainTimedOut e h =>
    right
    rw [drainTimeout_fields]
    unfold State.stream
    dsimp only
    rw [cell_mapAll]
    exact ⟨rfl, rfl, rfl, .inl le_rfl⟩
  | warmStarted _ => exact .inl (hsame (by rw [warmStart_fields]))
  | warmCompleted _ h =>
    right
    rw [warmComplete_fields]
    unfold State.stream
    dsimp only
    rw [cell_mapAll]
    exact ⟨rfl, rfl, rfl, .inr rfl⟩
  | _ => exact .inl (hsame rfl)

theorem Move.streamsInRange {fin : Bool} {s t : State} (hmove : Move fin s t) (h : s.streamsInRange) : t.streamsInRange := fun n =>
  (hmove.stream_cases n).elim (fun hm => hm.inRange (h n)) (fun hm => hm.inRange (h n))

theorem pendingCopies_iff (s : State) : s.pendingCopies ↔ ∀ n, (s.stream n).PendingCopies := Iff.rfl

theorem Move.pendingCopies {fin : Bool} {s t : State} (hmove : Move fin s t) (h : s.pendingCopies) : t.pendingCopies := by
  rw [pendingCopies_iff] at *
  intro n
  rcases hmove.stream_cases n with hm | hm
  · exact hm.pendingCopies (h n)
  · exact hm.pendingCopies (h n)

theorem coldReset_stream (s : State) (n : StreamId) : s.coldReset.stream n = Stream.cold := by
  rw [coldReset_fields]
  exact cell_replicate Stream.cold n

theorem streamsInRange_cold (s : State) : s.coldReset.streamsInRange := by
  intro n
  have hp : Params.cold.InRange := by constructor <;> decide
  rw [coldReset_stream]
  exact ⟨hp, hp, Nat.zero_le _⟩

theorem pendingCopies_cold (s : State) : s.coldReset.pendingCopies := fun n _ => by rw [coldReset_stream]; rfl

/-! ### Timers (R120, R122) -/

theorem TimerMove.inRange {t : TimerId} {x x' : Timer} (hmove : TimerMove t x x') (h : x.InRange) : x'.InRange := by
  cases hmove with
  | counted hne => exact ⟨by have := h.count; dsimp only; omega, h.frameLength, h.pendingAbove, h.pendingBelow⟩
  | frameStart => exact frameStart_inRange h
  | length l hl => exact ⟨h.count, h.frameLength, hl.1, hl.2⟩
  | _ => exact ⟨h.count, h.frameLength, h.pendingAbove, h.pendingBelow⟩

theorem TimerMove.notCascaded {x x' : Timer} (hmove : TimerMove 0 x x') (h : x.clock ≠ .cascade) :
    x'.clock ≠ .cascade := by
  cases hmove with
  | clock c hc => exact hc rfl
  | _ => exact h

/-- What a part of an event can do at a timer; the completion of a warm reset sets the count to 0 (R167). -/
theorem Move.timer_cases {fin : Bool} {s t : State} (hmove : Move fin s t) (u : TimerId) :
    TimerMove u (s.timer u) (t.timer u) ∨ t.timer u = { s.timer u with state := .stopped, count := 0 } := by
  have hsame : t.timers = s.timers → TimerMove u (s.timer u) (t.timer u) := fun h => by
    unfold State.timer; rw [h]; exact .refl _ _
  cases hmove with
  | other _ _ h => exact .inl (hsame (by rw [h]))
  | timers _ v h => exact .inl (h u)
  | kept _ r h hk => exact .inl (hsame (by rw [keep_fields]))
  | localAnswered _ f h =>
    obtain ⟨S, -, -, status, ghost, hf⟩ := localChoice_some h
    exact .inl (hsame (by rw [localAnswer_fields hf]))
  | granted _ r hs h => exact .inl (hsame (by rw [grantTo_fields]))
  | issueTaken _ => refine .inl (hsame ?_); rcases issueTake_cases s with ⟨-, h⟩ | ⟨q, -, h⟩ <;> rw [h]
  | aged e sel => exact .inl (hsame (by rw [ageRecords_fields]))
  | drainTimedOut e h => exact .inl (hsame (by rw [drainTimeout_fields]))
  | warmStarted _ =>
    left
    rw [warmStart_fields]
    unfold State.timer
    dsimp only
    rw [cell_mapAll]
    exact .state _ .stopped
  | warmCompleted _ h =>
    right
    rw [warmComplete_fields]
    unfold State.timer
    dsimp only
    rw [cell_mapAll]
  | _ => exact .inl (hsame rfl)

theorem Move.timersInRange {fin : Bool} {s t : State} (hmove : Move fin s t) (h : s.TimersInRange) : t.TimersInRange := by
  refine ⟨fun u => ?_, ?_⟩
  · rcases hmove.timer_cases u with hm | hm
    · exact hm.inRange (h.timers u)
    · obtain ⟨hcount, hlength, habove, hbelow⟩ := h.timers u
      rw [hm]
      exact ⟨Nat.zero_lt_of_lt hcount, hlength, habove, hbelow⟩
  · rcases hmove.timer_cases 0 with hm | hm
    · exact hm.notCascaded h.first
    · rw [hm]; exact h.first

theorem coldReset_timer (s : State) (t : TimerId) : s.coldReset.timer t = Timer.cold := by
  rw [coldReset_fields]
  exact cell_replicate Timer.cold t

theorem timersInRange_cold (s : State) : s.coldReset.TimersInRange := by
  refine ⟨fun t => ?_, ?_⟩ <;> rw [coldReset_timer]
  · constructor <;> decide
  · exact ClockSource.noConfusion

/-! ### Match list (R1) -/

/-- Only INSTALL and REMOVE change the match list (R8, R9). -/
theorem Move.pagesOrdered {fin : Bool} {s t : State} (hmove : Move fin s t) (h : s.pagesOrdered) : t.pagesOrdered := by
  have hsame : t.matchList = s.matchList → t.pagesOrdered := fun heq i => by rw [heq]; exact h i
  cases hmove with
  | other _ _ h => exact hsame (by rw [h])
  | install _ i hi =>
    intro j
    show (cell (updAt s.matchList i _) j).valid = true → _
    rw [State.setMatchList_matchList, cell_updAt]
    split
    · exact fun _ => hi
    · exact h j
  | remove _ i =>
    intro j
    show (cell (updAt s.matchList i _) j).valid = true → _
    rw [State.setMatchList_matchList, cell_updAt]
    split
    · exact fun hv => Bool.noConfusion hv
    · exact h j
  | kept _ r h hk => exact hsame (by rw [keep_fields])
  | localAnswered _ f h =>
    obtain ⟨S, -, -, status, ghost, hf⟩ := localChoice_some h
    exact hsame (by rw [localAnswer_fields hf])
  | granted _ r hs h => exact hsame (by rw [grantTo_fields])
  | issueTaken _ => refine hsame ?_; rcases issueTake_cases s with ⟨-, h⟩ | ⟨q, -, h⟩ <;> rw [h]
  | aged e sel => exact hsame (by rw [ageRecords_fields])
  | drainTimedOut e h => exact hsame (by rw [drainTimeout_fields])
  | warmStarted _ => exact hsame (by rw [warmStart_fields])
  | warmCompleted _ h => exact hsame (by rw [warmComplete_fields])
  | _ => exact hsame rfl

theorem pagesOrdered_cold (s : State) : s.coldReset.pagesOrdered := by
  intro i
  rw [coldReset_fields]
  show (cell (Vector.replicate 32 (⟨false, MatchRule.cold⟩ : MatchEntry)) i).valid = true → _
  rw [cell_replicate]
  exact fun hv => Bool.noConfusion hv

/-! ### The drain (R54, R165) -/

/-- A part of an event that leaves device control and adds no record. -/
theorem State.DrainLawful.congr {s t : State} (h : s.DrainLawful) (hd : t.dev = s.dev)
    (hs : s.store = [] → t.store = []) : t.DrainLawful :=
  ⟨fun hm => hs (h.store (hd ▸ hm)), hd ▸ h.runs, hd ▸ h.timer⟩

theorem drainNext_le (d : DeviceControl) : d.drainNext ≤ 65535 := Nat.min_le_left _ _

theorem Move.drainLawful {fin : Bool} {s t : State} (hmove : Move fin s t) (h : s.DrainLawful) : t.DrainLawful := by
  cases hmove with
  | other _ _ ht => exact h.congr (by rw [ht]) (by rw [ht]; exact id)
  | mode _ m hne hm => exact ⟨fun hd => absurd hd hm, fun hr => absurd (h.runs hr) hne, h.timer⟩
  | drainCounted _ hm => exact ⟨h.store, h.runs, drainNext_le _⟩
  | drainLimit _ l => exact ⟨h.store, h.runs, h.timer⟩
  | kept _ r ht hk =>
    rw [keep_fields]
    exact ⟨fun hd => absurd hd (takeable_some.mp ht).2.1, h.runs, h.timer⟩
  | localAnswered _ f hf =>
    obtain ⟨S, -, -, status, ghost, hf⟩ := localChoice_some hf
    exact h.congr (by rw [localAnswer_fields hf]) (by rw [localAnswer_fields hf]; exact id)
  | granted _ r hs hr =>
    rw [grantTo_fields]
    exact h.congr rfl fun hnil => by dsimp only; rw [hnil]; rfl
  | issueTaken _ =>
    rcases issueTake_cases s with ⟨-, ht⟩ | ⟨q, -, ht⟩ <;> rw [ht]
    · exact h
    · exact h.congr rfl id
  | aged e sel =>
    rw [ageRecords_fields]
    exact h.congr rfl fun hnil => by dsimp only; rw [hnil]; rfl
  | drainTimedOut e hm =>
    rw [drainTimeout_fields]
    exact ⟨h.store, fun hr => Bool.noConfusion hr, drainNext_le _⟩
  | warmStarted _ =>
    rw [warmStart_fields]
    exact ⟨fun _ => rfl, fun _ => rfl, Nat.zero_le _⟩
  | warmCompleted _ hd =>
    rw [warmComplete_fields]
    exact ⟨fun hm => DeviceMode.noConfusion hm, fun hr => Bool.noConfusion hr, h.timer⟩
  | _ => exact h.congr rfl id

theorem drainLawful_cold (s : State) : s.coldReset.DrainLawful := by
  rw [coldReset_fields]
  exact ⟨fun _ => rfl, fun hr => Bool.noConfusion hr, Nat.zero_le _⟩

/-! ### The divider (R119) -/

theorem Move.timebase {fin : Bool} {s t : State} (hmove : Move fin s t) : t.timebase = s.timebase := by
  cases hmove with
  | other _ _ h => rw [h]
  | kept _ r h hk => rw [keep_fields]
  | localAnswered _ f h =>
    obtain ⟨S, -, -, status, ghost, hf⟩ := localChoice_some h
    rw [localAnswer_fields hf]
  | granted _ r hs h => rw [grantTo_fields]
  | issueTaken _ => rcases issueTake_cases s with ⟨-, h⟩ | ⟨q, -, h⟩ <;> rw [h]
  | aged e sel => rw [ageRecords_fields]
  | drainTimedOut e h => rw [drainTimeout_fields]
  | warmStarted _ => rw [warmStart_fields]
  | warmCompleted _ h => rw [warmComplete_fields]
  | _ => rfl

theorem Moves.timebase {s t : State} (h : Moves true s t) : t.timebase = s.timebase :=
  h.keep (P := fun u => u.timebase = s.timebase) (fun _ _ hm hu => hm.timebase.trans hu) rfl

/-- A row moves the divider exactly where it begins a period. -/
theorem exec_timebase {s t : State} {c : Instr} (h : exec c s = .next t) :
    (s.inReset = false ∧ s.beginsPeriod c → t.timebase = s.timebase + 1) ∧ (c = .coldReset → t.timebase = 0) ∧
      (¬ (s.inReset = false ∧ s.beginsPeriod c) → c ≠ .coldReset → t.timebase = s.timebase) := by
  by_cases hc : c = .coldReset
  · subst hc
    rw [exec_coldReset] at h
    cases h
    refine ⟨?_, fun _ => rfl, fun _ hne => absurd rfl hne⟩
    rintro ⟨-, ⟨k, hk, -⟩ | ⟨ha, -⟩⟩
    · cases hk
    · cases ha
  · rcases exec_moves hc h with ⟨hno, hm⟩ | ⟨hr, hb, u, hm, hm'⟩
    · exact ⟨fun hb => absurd hb hno, fun hc' => absurd hc' hc, fun _ _ => hm.timebase⟩
    · refine ⟨fun _ => ?_, fun hc' => absurd hc' hc, fun hno => absurd ⟨hr, hb⟩ hno⟩
      calc t.timebase = u.nextPeriod.timebase := hm'.timebase
        _ = u.timebase + 1 := rfl
        _ = s.timebase + 1 := by rw [hm.timebase]

end Sys2Proof.Machine

namespace Sys2Proof.Proofs

open Sys2Proof Sys2Proof.Machine

/-- Settles O52: by the parts of events, none of which but the beginning of a period moves the divider. -/
theorem stepsKeepTheRanges : Obligations.StepsKeepTheRanges := by
  refine ⟨fun s s' h => ⟨?_, ?_, ?_, ?_, ?_⟩, fun s t c h => exec_timebase h⟩
  · exact step_keeps (fun _ _ hm => hm.streamsInRange) (fun _ h => h) streamsInRange_cold h
  · exact step_keeps (fun _ _ hm => hm.timersInRange) (fun _ h => ⟨h.timers, h.first⟩) timersInRange_cold h
  · exact step_keeps (fun _ _ hm => hm.pagesOrdered) (fun _ h => h) pagesOrdered_cold h
  · exact step_keeps (fun _ _ hm => hm.drainLawful) (fun _ h => h.congr rfl id) drainLawful_cold h
  · exact step_keeps (fun _ _ hm => hm.pendingCopies) (fun _ h => h) pendingCopies_cold h

end Sys2Proof.Proofs
end

section
/-! The release row in a state that a warm reset with nothing to wait for leaves: with no cold reset in force it ends as it
stands (log 3), and the completion that was to follow the start has not come. -/

namespace Sys2Proof.Machine

/-- A warm reset has started with nothing to wait for, and COLD_RESET_RELEASE is the next command. -/
def State.begunThenRelease : State :=
  { State.reset with
    pending := [.coldResetRelease]
    dev := { mode := .draining, drainRunning := true, drainTimer := 0, drainLimit := 4096 } }

theorem begunThenRelease_storeMatches : State.begunThenRelease.StoreMatches :=
  ⟨rfl, List.Pairwise.nil, fun _ he => absurd he List.not_mem_nil⟩

/-- In the state after the release row, whatever its queue, the drain is over in DRAINING. -/
theorem begunThenRelease_begun (p : List Instr) : (State.begunThenRelease.setPending p).Begun where
  released := rfl
  noted :=
    { response := fun _ hr => by cases hr
      shortfalls := fun n hs => by
        have hnone : (State.begunThenRelease.setPending p).queueHead n = none := rfl
        unfold State.headShort at hs
        rw [hnone] at hs
        simp at hs
      stall := rfl
      presented := fun _ _ => rfl }
  mode := rfl
  ended := ⟨fun _ he => absurd he List.not_mem_nil, rfl, rfl⟩

/-- With its drain over in DRAINING a state is not settled. -/
theorem State.Begun.not_settled {s : State} (h : s.Begun) : ¬ s.Settled := fun hs => hs.drain h.mode h.ended

end Sys2Proof.Machine

namespace Sys2Proof.Proofs

open Sys2Proof Sys2Proof.Machine

/-- Refutes O51: from Begun the row COLD_RESET_RELEASE, which with no reset in force changes nothing, leads to Begun again
although it asks for no warm reset and the state before it was not settled. -/
theorem not_stepsLeaveNoJudgementUnmade : ¬ Obligations.StepsLeaveNoJudgementUnmade := by
  rintro ⟨hstep, -⟩
  have hbegun := begunThenRelease_begun []
  have h := hstep State.begunThenRelease (State.begunThenRelease.setPending []) begunThenRelease_storeMatches
    (fun _ => .inr (begunThenRelease_begun _)) rfl rfl
  rcases h with hs | ⟨-, hs, -⟩
  · exact hbegun.not_settled hs
  · exact (begunThenRelease_begun _).not_settled hs

end Sys2Proof.Proofs
end

section
/-! The obligations about single conditions of a state: the classification, the order condition, the local round robin, the
notice lines, and which own events are due. -/

namespace Sys2Proof.Machine

/-! ### The front command (12.4), and the events that are due (log 2) -/

theorem step_front {s : State} {c : Instr} {rest : List Instr} (h : s.pending = c :: rest) :
    step s = exec c (s.setPending rest) := by
  unfold step
  rw [h]

/-- On an empty queue a step runs the chosen due event. -/
theorem step_own {s : State} {c : Instr} {k : Nat} (h : s.pending = [])
    (hd : chooseDue s.freeCount s.dueEvents = some (c, k)) : step s = exec c (s.setFreeCount (s.freeCount + k)) := by
  unfold step
  rw [h]
  dsimp only
  rw [hd]

/-- With no own event due either a step idles. -/
theorem step_idle {s : State} (h : s.pending = []) (hd : s.dueEvents = []) : step s = .next s := by
  unfold step
  rw [h]
  dsimp only
  rw [hd]
  rfl

theorem chooseDue_cons (k : Nat) (i : Instr) (l : List Instr) :
    ∃ c ∈ i :: l, ∃ j ≤ 1, chooseDue k (i :: l) = some (c, j) := by
  cases l with
  | nil => exact ⟨i, List.mem_cons_self, 0, Nat.zero_le _, rfl⟩
  | cons j l =>
    unfold chooseDue
    dsimp only
    split
    · next x hx => exact ⟨x, List.mem_of_getElem? hx, 1, le_rfl, rfl⟩
    · exact ⟨i, List.mem_cons_self, 1, le_rfl, rfl⟩

@[simp] theorem mem_dueWhen (b : Bool) (i c : Instr) : c ∈ dueWhen b i ↔ b = true ∧ c = i := by
  unfold dueWhen
  cases b <;> simp

theorem grantReady_isSome (s : State) : s.grantReady.isSome = true ↔ s.issue.stage = none ∧ s.grantChoice ≠ none := by
  unfold State.grantReady
  cases s.issue.stage with
  | none => simp [Option.isSome_iff_ne_none]
  | some q => simp

theorem fillReady_iff (s : State) :
    s.fillReady = true ↔ s.answer.stage = none ∧ (s.answerable ≠ none ∨ s.localChoice ≠ none) := by
  unfold State.fillReady
  simp [Option.isSome_iff_ne_none]

theorem takeable_isSome (s : State) :
    s.takeable.isSome = true ↔ ∃ r, s.up.offer = some r ∧ s.dev.mode ≠ .draining ∧ s.lacks r = Lacking.none := by
  rw [Option.isSome_iff_exists]
  exact exists_congr fun _ => takeable_some

/-- Each kind of own event stands in the list where its condition holds. -/
theorem mem_dueEvents (s : State) (c : Instr) :
    c ∈ s.dueEvents ↔ s.inReset = false ∧
      ((c = .requestTake ∧ s.takeable.isSome = true) ∨ (c = .grant ∧ s.grantReady.isSome = true) ∨
       (c = .answerFill ∧ s.fillReady = true) ∨ (c = .presentation ∧ s.nt.presentable = true) ∨
       (c = .warmResetCompletion ∧ s.drained = true) ∨
       (∃ t n, c = .frameStartDelivery t n ∧ (t, n) ∈ s.deliveries) ∨
       (∃ t, c = .cascadeTick t ∧ 0 < cell s.cascades t) ∨ (∃ k, c = .tapTick k ∧ s.awaitsTap k = true) ∨
       (c = .ageTick ∧ s.awaitsAge = true)) := by
  unfold State.dueEvents
  cases s.inReset with
  | true => simp
  | false =>
    simp only [Bool.false_eq_true, if_false, true_and, List.mem_append, mem_dueWhen, List.mem_map, List.mem_filter,
      List.mem_finRange, decide_eq_true_eq, or_assoc, Prod.exists, @eq_comm _ _ c, and_comm]

/-! ### Classification (R4) -/

theorem MatchEntry.hits_iff (e : MatchEntry) (r : Request) :
    e.hits r = true ↔ e.valid = true ∧ e.rule.sourceTest r.source = true ∧ e.rule.kind.test r.kind = true ∧
      e.rule.pageTest r.page = true := by
  simp only [MatchEntry.hits, Bool.and_eq_true, and_assoc]

/-- The entry of least index that a test picks is what a search of the table finds. -/
theorem find?_toList_eq_some {α : Type} {k : Nat} {v : Vector α k} {p : α → Bool} {i : Fin k} (hi : p (cell v i) = true)
    (hmin : ∀ j < i, p (cell v j) = false) : v.toList.find? p = some (cell v i) := by
  rw [List.find?_eq_some_iff_getElem]
  refine ⟨hi, i.val, by rw [Vector.length_toList]; exact i.isLt, Vector.getElem_toList _, fun j hj => ?_⟩
  rw [Vector.getElem_toList]
  have hfalse := hmin ⟨j, hj.trans i.isLt⟩ hj
  simpa [cell] using hfalse

theorem classify_of_first {s : State} {r : Request} {i : Fin 32} (hi : (cell s.matchList i).hits r = true)
    (hmin : ∀ j < i, (cell s.matchList j).hits r = false) : s.classify r = (cell s.matchList i).rule.stream := by
  have hfind : s.matchList.toList.find? (fun e => e.hits r) = some (cell s.matchList i) := find?_toList_eq_some hi hmin
  unfold State.classify
  rw [hfind]

theorem classify_of_none {s : State} {r : Request} (h : ∀ i, (cell s.matchList i).hits r = false) : s.classify r = 0 := by
  unfold State.classify
  rw [List.find?_eq_none.mpr]
  intro e he
  obtain ⟨i, hi, rfl⟩ := List.getElem_of_mem he
  rw [Vector.length_toList] at hi
  rw [Vector.getElem_toList, Bool.not_eq_true]
  exact h ⟨i, hi⟩

/-! ### The order condition (R61, R63) -/

/-- The record drawn first is its queue's head and its source's oldest. -/
theorem State.StoreMatches.first_isHead {s : State} (h : s.StoreMatches) {r : StoreRec} {l : List StoreRec}
    (hs : s.store = r :: l) : r ∈ s.store ∧ s.isHead r = true ∧ s.orderOk r = true := by
  have hr : r ∈ s.store := hs ▸ List.mem_cons_self
  have hfirst : ∀ x ∈ s.store, r.draw ≤ x.draw := by
    have hrising := h.store_rising
    rw [hs] at hrising ⊢
    intro x hx
    rcases List.mem_cons.mp hx with rfl | hx
    · exact le_rfl
    · exact (List.rel_of_pairwise_cons hrising hx).le
  exact ⟨hr, (h.isHead_iff hr).mpr fun x hx _ => hfirst x hx, (h.orderOk_iff hr).mpr fun x hx _ => hfirst x hx⟩

theorem State.StoreMatches.eligible_of_source {s : State} (h : s.StoreMatches) {r x : StoreRec} (hr : r ∈ s.store)
    (hx : x ∈ s.store) (her : s.eligible r = true) (hex : s.eligible x = true) (hsource : r.source = x.source) : r = x := by
  have hro := (h.orderOk_iff hr).mp ((s.eligible_iff r).mp her).2.1
  have hxo := (h.orderOk_iff hx).mp ((s.eligible_iff x).mp hex).2.1
  exact h.eq_of_draw_eq hr hx (le_antisymm (hro x hx hsource.symm) (hxo r hr hsource))

/-! ### The local round robin (R99) -/

/-- The k-th source of the round robin lies k past the source after the pointer. -/
theorem distance_sourceAfter (p : Source) {k : Nat} (hk : k < 64) :
    ((p + BitVec.ofNat 6 (k + 1)).toNat + 63 - p.toNat) % 64 = k := by
  have hp := p.isLt
  simp only [BitVec.toNat_add, BitVec.toNat_ofNat]
  omega

theorem mem_sourcesAfter (p S : Source) : S ∈ sourcesAfter p := by
  refine List.mem_map.mpr ⟨(S.toNat + 63 - p.toNat) % 64, List.mem_range.mpr (Nat.mod_lt _ (by decide)), ?_⟩
  have hp := p.isLt
  have hS := S.isLt
  apply BitVec.eq_of_toNat_eq
  simp only [BitVec.toNat_add, BitVec.toNat_ofNat]
  omega

/-- The round robin visits the sources by their distance from the one after the pointer. -/
theorem sourcesAfter_rising (p : Source) :
    (sourcesAfter p).Pairwise
      (fun a b => (a.toNat + 63 - p.toNat) % 64 < (b.toNat + 63 - p.toNat) % 64) := by
  rw [sourcesAfter, List.pairwise_map]
  refine List.pairwise_lt_range.imp_of_mem fun {a b} ha hb hab => ?_
  rw [distance_sourceAfter p (List.mem_range.mp ha), distance_sourceAfter p (List.mem_range.mp hb)]
  exact hab

theorem localFront_some {s : State} {S : Source} {f : OrderEntry} :
    s.localFront S = some f ↔ s.answerFront S = some f ∧ f.state.isLocal = true := by
  unfold State.localFront
  rw [Option.filter_eq_some_iff]

/-- In a list whose keys rise, the first element for which f answers has the least key of all for which it does. -/
theorem key_le_of_findSome?_eq_some {α β : Type} {key : α → Nat} {l : List α} {f : α → Option β} {b : β}
    (hl : l.Pairwise (fun a b => key a < key b)) (hfind : l.findSome? f = some b) :
    ∃ a ∈ l, f a = some b ∧ ∀ x ∈ l, f x ≠ none → key a ≤ key x := by
  induction l with
  | nil => cases hfind
  | cons a l ih =>
    obtain ⟨ha, hrest⟩ := List.pairwise_cons.mp hl
    rw [List.findSome?_cons] at hfind
    cases hfa : f a with
    | some y =>
      rw [hfa] at hfind
      cases hfind
      refine ⟨a, List.mem_cons_self, hfa, fun x hx _ => ?_⟩
      rcases List.mem_cons.mp hx with rfl | hx
      · exact le_rfl
      · exact (ha x hx).le
    | none =>
      rw [hfa] at hfind
      obtain ⟨c, hc, hfc, hmin⟩ := ih hrest hfind
      refine ⟨c, List.mem_cons_of_mem _ hc, hfc, fun x hx hne => ?_⟩
      rcases List.mem_cons.mp hx with rfl | hx
      · exact absurd hfa hne
      · exact hmin x hx hne

theorem localChoice_first {s : State} {f : OrderEntry} (h : s.localChoice = some f) :
    s.answerFront f.source = some f ∧ f.state.isLocal = true ∧
      ∀ (S : Source) (g : OrderEntry), s.answerFront S = some g → g.state.isLocal = true →
        (f.source.toNat + 63 - s.answer.ptr.toNat) % 64 ≤ (S.toNat + 63 - s.answer.ptr.toNat) % 64 := by
  obtain ⟨S, -, hS, hmin⟩ := key_le_of_findSome?_eq_some (sourcesAfter_rising s.answer.ptr) h
  obtain ⟨hfront, hlocal⟩ := localFront_some.mp hS
  have hsource : f.source = S := by
    have hp := List.find?_some hfront
    simp only [Bool.and_eq_true, beq_iff_eq] at hp
    exact hp.1
  subst hsource
  refine ⟨hfront, hlocal, fun S g hg hgl => hmin S (mem_sourcesAfter _ _) ?_⟩
  rw [localFront_some.mpr ⟨hg, hgl⟩]
  exact Option.some_ne_none g

theorem localChoice_none {s : State} :
    s.localChoice = none ↔ ∀ (S : Source) (g : OrderEntry), s.answerFront S = some g → g.state.isLocal = false := by
  unfold State.localChoice
  rw [List.findSome?_eq_none_iff]
  constructor
  · intro h S g hg
    by_contra hne
    have hsome := localFront_some.mpr ⟨hg, (Bool.not_eq_false _).mp hne⟩
    rw [h S (mem_sourcesAfter _ _)] at hsome
    cases hsome
  · intro h S _
    refine Option.eq_none_iff_forall_ne_some.mpr fun g hg => ?_
    obtain ⟨hfront, hlocal⟩ := localFront_some.mp hg
    exact Bool.noConfusion ((h S g hfront).symm.trans hlocal)

end Sys2Proof.Machine

namespace Sys2Proof.Proofs

open Sys2Proof Sys2Proof.Machine

/-- Settles O1. -/
theorem stepTakesTheFrontCommand : Obligations.StepTakesTheFrontCommand := fun _ _ _ h => step_front h

/-- Settles O2: the list of due events is read off condition by condition. -/
theorem emptyQueueRunsADueEvent : Obligations.EmptyQueueRunsADueEvent := by
  intro s hp
  refine ⟨fun hnone => ?_, fun hne => ?_, fun c => ?_⟩
  · exact step_idle hp hnone
  · obtain ⟨i, l, hil⟩ := List.exists_cons_of_ne_nil hne
    obtain ⟨c, hc, j, hj, hchoose⟩ := chooseDue_cons s.freeCount i l
    refine ⟨c, hil ▸ hc, j, hj, ?_⟩
    exact step_own hp (hil ▸ hchoose)
  · simp only [mem_dueEvents, takeable_isSome, grantReady_isSome, fillReady_iff, presentable_iff, drained_iff,
      State.drainOver, awaitsTap_iff, awaitsAge_iff, exists_and_left]

/-- Settles O6: a search of the match list finds the entry of least index. -/
theorem firstMatchNamesTheStream : Obligations.FirstMatchNamesTheStream := by
  intro s r
  refine ⟨fun i hi hmin => classify_of_first ((MatchEntry.hits_iff _ r).mpr hi) fun j hj => ?_,
    fun hnone => classify_of_none fun i => ?_⟩
  · exact Bool.eq_false_iff.mpr fun hj' => hmin j hj ((MatchEntry.hits_iff _ r).mp hj')
  · exact Bool.eq_false_iff.mpr fun hi => hnone i ((MatchEntry.hits_iff _ r).mp hi)

/-- Settles O9: the record drawn first meets the order condition, and of each source only the oldest does. -/
theorem someHeadMeetsTheOrderCondition : Obligations.SomeHeadMeetsTheOrderCondition := by
  refine fun s h => ⟨fun hne => ?_, fun r hr x hx her hex hsource => h.eligible_of_source hr hx her hex hsource⟩
  obtain ⟨r, l, hs⟩ := List.exists_cons_of_ne_nil hne
  exact ⟨r, h.first_isHead hs⟩

/-- Settles O11: the search runs along the sources by their distance from the pointer. -/
theorem localRoundRobin : Obligations.LocalRoundRobin := fun _ => ⟨fun _ h => localChoice_first h, localChoice_none⟩

end Sys2Proof.Proofs
end

section
/-! The obligations about the notice lines, the routing of an occurrence, the resources that lack, the urgency closure, and
the state right after reset. -/

namespace Sys2Proof.Machine

/-! ### The notice lines (R142 to R144) -/

theorem NoticeSource.qualifies_iff (q : NoticeSource) (threshold : Fin 8) :
    q.qualifies threshold = true ↔ q.enable = true ∧ q.causes ≠ 0 ∧ threshold < q.level := by
  simp only [NoticeSource.qualifies, Bool.and_eq_true, bne_iff_ne, decide_eq_true_eq, and_assoc]

theorem irq_iff (nt : Notices) : nt.irq = true ↔ ∃ x, (cell nt.sources x).qualifies nt.threshold = true := by
  simp only [Notices.irq, List.any_eq_true, List.mem_finRange, true_and]

/-- EXPIRED stands at position 3 of a stream source's cause register. -/
theorem holds_expired (cs : CauseSet) : CauseSet.holds cs .expired = cs.getLsbD 3 := by
  revert cs
  decide

theorem urg_iff (nt : Notices) :
    nt.urg = true ↔ ∃ n : StreamId, (cell nt.sources (streamSource n)).causes.getLsbD 3 = true := by
  simp only [Notices.urg, List.any_eq_true, List.mem_finRange, true_and, Bool.and_eq_true, decide_eq_true_eq,
    holds_expired]
  constructor
  · rintro ⟨x, hx, h⟩
    exact ⟨⟨x.val, hx⟩, h⟩
  · rintro ⟨n, h⟩
    exact ⟨streamSource n, n.isLt, h⟩

/-- The source comes before another that qualifies: by a higher level, or at one level by a number not above (R144). -/
def Notices.TopOf (nt : Notices) (x y : NoticeId) : Prop :=
  (cell nt.sources y).level < (cell nt.sources x).level ∨ ((cell nt.sources y).level = (cell nt.sources x).level ∧ x ≤ y)

theorem topAt_some {nt : Notices} {L : Fin 8} {x : NoticeId} (h : nt.topAt L = some x) :
    (cell nt.sources x).qualifies nt.threshold = true ∧ (cell nt.sources x).level = L ∧
      ∀ y, (cell nt.sources y).qualifies nt.threshold = true → (cell nt.sources y).level = L → x ≤ y := by
  have hx := List.find?_some h
  simp only [Bool.and_eq_true, beq_iff_eq] at hx
  refine ⟨hx.1, hx.2, fun y hy hl => ?_⟩
  exact key_le_of_find?_eq_some (key := Fin.val) (List.pairwise_lt_finRange 24) h (List.mem_finRange y)
    (by simp only [hy, hl, Bool.true_and, beq_self_eq_true])

theorem topAt_ne_none {nt : Notices} {y : NoticeId} (hy : (cell nt.sources y).qualifies nt.threshold = true) :
    nt.topAt (cell nt.sources y).level ≠ none := by
  unfold Notices.topAt
  rw [ne_eq, List.find?_eq_none]
  exact fun h => h y (List.mem_finRange y) (by simp only [hy, Bool.true_and, beq_self_eq_true])

/-- The search of the levels finds a source that qualifies and comes before every other that does. -/
theorem top_some {nt : Notices} {x : NoticeId} (h : levelsDown.findSome? nt.topAt = some x) :
    (cell nt.sources x).qualifies nt.threshold = true ∧
      ∀ y, (cell nt.sources y).qualifies nt.threshold = true → nt.TopOf x y := by
  obtain ⟨L, -, hL, hmin⟩ := key_le_of_findSome?_eq_some (key := fun M => M.rev.val) levelsDown_falling h
  obtain ⟨hx, rfl, hfirst⟩ := topAt_some hL
  refine ⟨hx, fun y hy => ?_⟩
  have hle := hmin _ (mem_levelsDown _) (topAt_ne_none hy)
  have hlevel : (cell nt.sources y).level ≤ (cell nt.sources x).level := by
    rw [← Fin.rev_le_rev]
    exact hle
  exact hlevel.lt_or_eq.imp id fun heq => ⟨heq, hfirst y hy heq⟩

/-- It finds none exactly where none qualifies. -/
theorem top_none {nt : Notices} (h : levelsDown.findSome? nt.topAt = none) (y : NoticeId) :
    (cell nt.sources y).qualifies nt.threshold = false := by
  rw [List.findSome?_eq_none_iff] at h
  by_contra hy
  exact topAt_ne_none ((Bool.not_eq_false _).mp hy) (h _ (mem_levelsDown _))

theorem TopOf.antisymm {nt : Notices} {x y : NoticeId} (h : nt.TopOf x y) (k : nt.TopOf y x) : x = y := by
  rcases h with hlt | ⟨heq, hle⟩
  · rcases k with klt | ⟨keq, -⟩
    · exact absurd (hlt.trans klt) (lt_irrefl _)
    · exact absurd hlt (keq ▸ lt_irrefl _)
  · rcases k with klt | ⟨-, kle⟩
    · exact absurd klt (heq ▸ lt_irrefl _)
    · exact le_antisymm hle kle

theorem topNotice_some {nt : Notices} {x : NoticeId} (h : levelsDown.findSome? nt.topAt = some x) :
    nt.topNotice = x.val := by
  unfold Notices.topNotice
  rw [h]

theorem topNotice_none {nt : Notices} (h : levelsDown.findSome? nt.topAt = none) : nt.topNotice = 31 := by
  unfold Notices.topNotice
  rw [h]

theorem topNotice_iff (nt : Notices) (x : NoticeId) :
    nt.topNotice = x.val ↔ (cell nt.sources x).qualifies nt.threshold = true ∧
      ∀ y, (cell nt.sources y).qualifies nt.threshold = true → nt.TopOf x y := by
  cases htop : levelsDown.findSome? nt.topAt with
  | some z =>
    obtain ⟨hz, hzmax⟩ := top_some htop
    rw [topNotice_some htop]
    constructor
    · intro hzx
      rw [← Fin.ext hzx]
      exact ⟨hz, hzmax⟩
    · rintro ⟨hx, hxmax⟩
      rw [TopOf.antisymm (hzmax x hx) (hxmax z hz)]
  | none =>
    rw [topNotice_none htop]
    refine ⟨fun hx => absurd x.isLt (by omega), fun ⟨hx, _⟩ => ?_⟩
    rw [top_none htop x] at hx
    cases hx

theorem topNotice_eq_31_iff (nt : Notices) : nt.topNotice = 31 ↔ nt.irq = false := by
  rw [← Bool.not_eq_true, irq_iff, not_exists]
  cases htop : levelsDown.findSome? nt.topAt with
  | some z =>
    rw [topNotice_some htop]
    exact ⟨fun hz => absurd z.isLt (by omega), fun h => absurd (top_some htop).1 (h z)⟩
  | none =>
    rw [topNotice_none htop]
    exact ⟨fun _ y => by rw [top_none htop y]; exact Bool.false_ne_true, fun _ => rfl⟩

/-! ### The routing of an occurrence (R141, R149) -/

theorem queued_iff (nt : Notices) (x : NoticeId) : nt.queued x = true ↔ ∃ e ∈ nt.queue, e.source = x := by
  simp only [Notices.queued, List.any_eq_true, beq_iff_eq]

theorem not_queued {nt : Notices} {x : NoticeId} (h : ∀ e ∈ nt.queue, e.source ≠ x) : nt.queued x = false :=
  Bool.eq_false_iff.mpr fun hq => let ⟨e, he, heq⟩ := (queued_iff nt x).mp hq; h e he heq

theorem occur_interrupt {nt : Notices} {o : Occurrence} (h : (cell nt.sources o.source).route = .interrupt) :
    nt.occur o = nt.join o.source o.cause.bit := by
  unfold Notices.occur
  rw [h]

theorem occur_handshake {nt : Notices} {o : Occurrence} (h : (cell nt.sources o.source).route = .handshake) :
    nt.occur o = (if o.cause = .expired then nt.join o.source o.cause.bit else nt).toHandshake o := by
  unfold Notices.occur
  rw [h]
  dsimp only
  split <;> rfl

theorem toHandshake_waiting {nt : Notices} {o : Occurrence} (h : nt.queued o.source = true) :
    nt.toHandshake o = nt.merge o := by
  unfold Notices.toHandshake
  rw [if_pos h]

theorem toHandshake_new {nt : Notices} {o : Occurrence} (h : nt.queued o.source = false)
    (hl : nt.queue.length < Config.handshakeCapacity) : nt.toHandshake o = nt.append o := by
  unfold Notices.toHandshake
  rw [if_neg (by rw [h]; exact Bool.false_ne_true), if_pos hl]

theorem toHandshake_full {nt : Notices} {o : Occurrence} (h : nt.queued o.source = false)
    (hl : Config.handshakeCapacity ≤ nt.queue.length) : nt.toHandshake o = (nt.join o.source o.cause.bit).overflowed := by
  unfold Notices.toHandshake
  rw [if_neg (by rw [h]; exact Bool.false_ne_true), if_neg (Nat.not_lt.mpr hl)]

/-- The route of a source is no cause set. -/
theorem join_route (nt : Notices) (x y : NoticeId) (cs : CauseSet) :
    (cell (nt.join x cs).sources y).route = (cell nt.sources y).route := by
  unfold Notices.join
  dsimp only
  rw [cell_updAt]
  split
  · next heq => subst heq; rfl
  · rfl

theorem merge_queue (nt : Notices) (o : Occurrence) :
    nt.merge o =
      { nt with
        queue := nt.queue.map (fun e =>
          if e.source = o.source then { e with causes := e.causes ||| o.cause.bit } else e) } := by
  unfold Notices.merge
  simp only [beq_iff_eq]

theorem overflowed_merge {nt : Notices} (hr : (cell nt.sources 21).route = .handshake) (hq : nt.queued 21 = true) :
    nt.overflowed = nt.merge ⟨21, .hsOverflow⟩ := by
  unfold Notices.overflowed
  dsimp only
  rw [hr]
  exact if_pos hq

theorem overflowed_join {nt : Notices} (h : (cell nt.sources 21).route = .interrupt ∨ nt.queued 21 = false) :
    nt.overflowed = nt.join 21 Cause.hsOverflow.bit := by
  unfold Notices.overflowed
  dsimp only
  split
  · rfl
  · next hr =>
    rcases h with h | h
    · rw [hr] at h; cases h
    · exact if_neg (by rw [h]; exact Bool.false_ne_true)

/-- EXPIRED joins the cause set beside its way to the handshake queue; the queue is the same. -/
theorem queued_ite_join (nt : Notices) (p : Prop) [Decidable p] (x y : NoticeId) (cs : CauseSet) :
    (if p then nt.join x cs else nt).queued y = nt.queued y := by
  split <;> rfl

theorem queue_ite_join (nt : Notices) (p : Prop) [Decidable p] (x : NoticeId) (cs : CauseSet) :
    (if p then nt.join x cs else nt).queue = nt.queue := by
  split <;> rfl

/-- A cause that joins a set twice joins it once. -/
theorem join_ite_join (nt : Notices) (p : Prop) [Decidable p] (x : NoticeId) (cs : CauseSet) :
    (if p then nt.join x cs else nt).join x cs = nt.join x cs := by
  split
  · unfold Notices.join
    dsimp only
    rw [updAt_updAt]
    simp only [BitVec.or_assoc, BitVec.or_self]
  · rfl

/-! ### The resources that lack (R32 to R34, R38) -/

theorem wellFormed_iff (r : Request) :
    r.wellFormed = true ↔ 1 ≤ r.beats.toNat ∧ r.beats.toNat ≤ 16 ∧ 16 ∣ r.address.toNat ∧
      r.address.toNat % 4096 + r.beats.toNat * 16 ≤ 4096 := by
  simp only [Request.wellFormed, Bool.and_eq_true, decide_eq_true_eq, and_assoc, Nat.dvd_iff_mod_eq_zero,
    show Config.beatBytes = 16 from rfl, show Config.pageBytes = 4096 from rfl]

theorem refuses_iff (s : State) (n : StreamId) (b : Nat) :
    s.refuses n b = true ↔ (s.stream n).mode = .on ∧ s.dev.mode = .regulate ∧ (s.stream n).live.policy = .refuse ∧
      (s.queue n ≠ [] ∨ s.windowOpen n = false ∨ (s.stream n).credit < b) := by
  simp only [State.refuses, Bool.and_eq_true, Bool.or_eq_true, beq_iff_eq, s.regulated_iff, Bool.not_eq_true',
    List.isEmpty_eq_false_iff, decide_eq_true_eq, and_assoc, or_assoc]

/-- A request would be kept: well formed, below the hold limit and not refused (R38 to R43). -/
theorem admission_kept_iff (s : State) (r : Request) :
    s.admission r = .kept (s.classify r) ↔
      r.wellFormed = true ∧ (s.queue (s.classify r)).length < (s.stream (s.classify r)).live.holdLimit ∧
        ¬ s.refuses (s.classify r) r.beats.toNat = true := by
  rcases admission_cases s r with ⟨ha, hw⟩ | ⟨ha, hw, hl⟩ | ⟨ha, hw, hl, hr⟩ | ⟨ha, hw, hl, hr⟩ <;> rw [ha]
  · simp [hw]
  · simp [hl]
  · simp [hr]
  · simp [hw, hl, hr]

/-- The kept requests lack a store record and buffer beats where there is no room. -/
theorem lacks_iff (s : State) (r : Request) :
    ((s.lacks r).order = true ↔ Config.orderCapacity ≤ s.order.length) ∧
    ((s.lacks r).store = true ↔ s.admission r = .kept (s.classify r) ∧ Config.storeCapacity ≤ s.store.length) ∧
    ((s.lacks r).data = true ↔ s.admission r = .kept (s.classify r) ∧ r.kind = .write ∧
      Config.bufferBeats < s.bufferUsed + r.beats.toNat) := by
  refine ⟨by simp [State.lacks], ?_, ?_⟩ <;>
    rcases admission_cases s r with ⟨ha, -⟩ | ⟨ha, -⟩ | ⟨ha, -⟩ | ⟨ha, -⟩ <;> simp [State.lacks, ha]

/-! ### The urgency closure (R110) -/

/-- A closure over more records holds what it held. -/
theorem InClosure.cons {r : StoreRec} {l : List StoreRec} {seed : StoreRec → Prop} {x : StoreRec}
    (h : InClosure l seed x) : InClosure (r :: l) seed x := by
  induction h with
  | seed x hx hs => exact .seed x (List.mem_cons_of_mem _ hx) hs
  | ahead x y hx _ hlt hsame ih => exact .ahead x y (List.mem_cons_of_mem _ hx) ih hlt hsame

theorem InClosure.mem {l : List StoreRec} {seed : StoreRec → Prop} {x : StoreRec} (h : InClosure l seed x) : x ∈ l := by
  cases h <;> assumption

/-- A record drawn before all others brings none of them into the closure. -/
theorem InClosure.of_cons {r : StoreRec} {l : List StoreRec} {seed : StoreRec → Prop} (hr : ∀ y ∈ l, r.draw < y.draw)
    {x : StoreRec} (h : InClosure (r :: l) seed x) (hx : x ∈ l) : InClosure l seed x := by
  induction h with
  | seed x _ hs => exact .seed x hx hs
  | ahead x y _ hy hlt hsame ih =>
    have hyl : y ∈ l := by
      rcases List.mem_cons.mp hy.mem with rfl | hy
      · exact absurd ((hr x hx).trans hlt) (lt_irrefl _)
      · exact hy
    exact .ahead x y hx (ih hyl) hlt hsame

/-- The computed marks are those of the closure (R110). -/
theorem urgencyClosure_iff {seed : StoreRec → Bool} {store : List StoreRec}
    (hs : store.Pairwise (fun a b => a.draw < b.draw)) {r : StoreRec} {mark : Bool}
    (h : (r, mark) ∈ urgencyClosure seed store) : mark = true ↔ InClosure store (fun x => seed x = true) r := by
  induction store generalizing r mark with
  | nil => cases h
  | cons a later ih =>
    obtain ⟨ha, hrest⟩ := List.pairwise_cons.mp hs
    rcases List.mem_cons.mp h with heq | hmem
    · obtain ⟨rfl, rfl⟩ := Prod.mk.inj heq
      rw [Bool.or_eq_true, List.any_eq_true]
      constructor
      · rintro (hseed | ⟨⟨y, my⟩, hy, hsame⟩)
        · exact .seed _ List.mem_cons_self hseed
        · simp only [Bool.and_eq_true, Bool.or_eq_true, beq_iff_eq] at hsame
          have hyc := (ih hrest hy).mp hsame.1
          exact .ahead _ y List.mem_cons_self hyc.cons (ha y hyc.mem) (hsame.2.imp Eq.symm Eq.symm)
      · intro hc
        cases hc with
        | seed _ _ hseed => exact .inl hseed
        | ahead _ y _ hy hlt hsame =>
          have hyl : y ∈ later := (List.mem_cons.mp hy.mem).resolve_left fun heq => by rw [heq] at hlt; exact lt_irrefl _ hlt
          have hfst : y ∈ (urgencyClosure seed later).map Prod.fst := by rw [urgencyClosure_fst]; exact hyl
          obtain ⟨⟨z, mz⟩, hz, rfl⟩ := List.mem_map.mp hfst
          have hmz := (ih hrest hz).mpr (hy.of_cons ha hyl)
          refine .inr ⟨(z, mz), hz, ?_⟩
          simp only [hmz, Bool.true_and, Bool.or_eq_true, beq_iff_eq]
          exact hsame.imp Eq.symm Eq.symm
    · have hr : r ∈ later := mem_of_mem_urgencyClosure hmem
      exact (ih hrest hmem).trans ⟨InClosure.cons, fun hc => hc.of_cons ha hr⟩

end Sys2Proof.Machine

namespace Sys2Proof.Proofs

open Sys2Proof Sys2Proof.Machine

/-- Settles O12: the top notice is the least of those that qualify, by level down and then by number. -/
theorem noticeLines : Obligations.NoticeLines := by
  intro nt
  simp only [← NoticeSource.qualifies_iff]
  exact ⟨irq_iff nt, urg_iff nt, topNotice_iff nt, topNotice_eq_31_iff nt⟩

/-- Settles O13: by the route, by whether an entry of the source waits, and by whether the queue is full. -/
theorem occurrenceRouting : Obligations.OccurrenceRouting := by
  intro nt o
  refine ⟨occur_interrupt, fun hr => ⟨fun hq => ?_, fun hq hl => ?_, fun hq hl => ⟨fun hr21 hq21 => ?_, fun h21 => ?_⟩⟩⟩
  · have hqueued := (queued_iff nt o.source).mpr hq
    rw [occur_handshake hr, toHandshake_waiting (by rw [queued_ite_join]; exact hqueued), merge_queue, queue_ite_join]
    rfl
  · have hqueued := not_queued hq
    rw [occur_handshake hr, toHandshake_new (by rw [queued_ite_join]; exact hqueued) (by rw [queue_ite_join]; exact hl),
      Notices.append, queue_ite_join]
    rfl
  · have hqueued := not_queued hq
    rw [occur_handshake hr, toHandshake_full (by rw [queued_ite_join]; exact hqueued) (by rw [queue_ite_join]; exact hl),
      join_ite_join, overflowed_merge (nt := nt.join o.source o.cause.bit) (by rw [join_route]; exact hr21)
        ((queued_iff nt 21).mpr hq21), merge_queue]
    rfl
  · have hqueued := not_queued hq
    have h21' : (cell (nt.join o.source o.cause.bit).sources 21).route = .interrupt ∨
        (nt.join o.source o.cause.bit).queued 21 = false := by
      rw [join_route]
      exact h21.imp id not_queued
    rw [occur_handshake hr, toHandshake_full (by rw [queued_ite_join]; exact hqueued) (by rw [queue_ite_join]; exact hl),
      join_ite_join, overflowed_join h21']
    rfl

/-- Settles O14: a store record and buffer beats lack for a request that would be kept alone. -/
theorem resourcesThatLack : Obligations.ResourcesThatLack := by
  intro s r
  obtain ⟨horder, hstore, hdata⟩ := lacks_iff s r
  simp only [admission_kept_iff, refuses_iff] at hstore hdata
  exact ⟨wellFormed_iff r, horder, hstore, hdata⟩

/-- Settles O27: a member of the closure is reached from later records alone, as the computation goes. -/
theorem urgencyClosureIsSmallest : Obligations.UrgencyClosureIsSmallest :=
  fun store seed hs => ⟨urgencyClosure_fst seed store, fun _ _ h => urgencyClosure_iff hs h⟩

end Sys2Proof.Proofs
end

section
/-! The state right after reset. -/

namespace Sys2Proof.Machine

/-- Right after reset is right after the onset of cold reset and its release with nothing waiting. -/
theorem reset_eq_released : State.reset = State.reset.coldReset.setInReset false := rfl

/-- What the onset of cold reset and every part of an event give, the state after reset has. -/
theorem reset_meets {P : State → Prop} (hmove : ∀ s t, Move true s t → P s → P t) (hcold : ∀ s : State, P s.coldReset) :
    P State.reset :=
  reset_eq_released ▸ hmove _ _ (.released _) (hcold _)

@[simp] theorem reset_stream (n : StreamId) : State.reset.stream n = Stream.cold := cell_replicate _ n

@[simp] theorem reset_timer (t : TimerId) : State.reset.timer t = Timer.cold := cell_replicate _ t

theorem reset_source (x : NoticeId) : cell State.reset.nt.sources x = NoticeSource.cold := cell_replicate _ x

/-- With no entry in the order table no answer front is LOCAL. -/
theorem localChoice_of_empty {s : State} (h : s.order = []) : s.localChoice = none := by
  rw [localChoice_none]
  intro S g hg
  unfold State.answerFront at hg
  rw [h] at hg
  cases hg

/-- With no store record no head is short. -/
theorem headShort_of_empty {s : State} (h : s.store = []) (n : StreamId) : s.headShort n = false := by
  have hnone : s.queueHead n = none := by unfold State.queueHead; rw [h]; rfl
  unfold State.headShort
  rw [hnone]
  exact Bool.and_false _

theorem reset_ready : State.reset.Ready where
  released := rfl
  settled :=
    { noted :=
        { response := fun _ hr => by cases hr
          shortfalls := fun n hs => by rw [headShort_of_empty rfl] at hs; cases hs
          stall := rfl
          presented := fun _ _ => rfl }
      offer := offerWaits_of_none rfl
      drain := drainWaits_of_mode DeviceMode.noConfusion
      answers := fun _ => ⟨rfl, localChoice_of_empty rfl⟩ }

theorem reset_irq : State.reset.nt.irq = false := by
  rw [← Bool.not_eq_true, irq_iff]
  rintro ⟨x, hx⟩
  rw [reset_source] at hx
  cases hx

theorem reset_urg : State.reset.nt.urg = false := by
  rw [← Bool.not_eq_true, urg_iff]
  rintro ⟨n, hn⟩
  rw [reset_source] at hn
  cases hn

/-- The snapshot of zeros reads 0 at every offset (R189). -/
theorem snapshot_empty_word {o : Nat} (h : o ≤ 10) : Snapshot.empty.word o = some 0 := by
  interval_cases o <;> rfl

end Sys2Proof.Machine

namespace Sys2Proof.Proofs

open Sys2Proof Sys2Proof.Machine

/-- Settles O3, field by field. -/
theorem resetLeavesTheColdValues : Obligations.ResetLeavesTheColdValues := by
  refine ⟨fun i => cell_replicate _ i, rfl, fun n => ?_, fun n => ?_, rfl, rfl, rfl, rfl, rfl, rfl, rfl, rfl,
    fun L => cell_replicate _ L, rfl, rfl, reset_timer, fun w => ?_, reset_source, rfl, rfl, rfl, rfl, rfl, rfl, reset_irq,
    reset_urg, rfl, rfl, rfl, rfl, rfl, rfl, rfl, rfl, rfl, fun o ho => snapshot_empty_word ho⟩
  · rw [reset_stream]; rfl
  · rw [reset_stream]
    exact ⟨rfl, rfl, rfl, rfl, rfl, rfl, rfl⟩
  · have hnone : cell State.reset.winSelect w = none := cell_replicate _ w
    refine ⟨hnone, ?_⟩
    unfold State.winPin
    rw [hnone]

/-- Settles O59: each law holds at the onset of cold reset and is kept by its release. -/
theorem resetMeetsEveryLaw : Obligations.ResetMeetsEveryLaw := by
  have hmatch : State.reset.StoreMatches := reset_meets (fun _ _ hm => hm.storeMatches) storeMatches_cold
  have hcounts := reset_meets (P := fun s => s.StoreMatches ∧ s.issueCountsExact)
    (fun _ _ hm hs => ⟨hm.storeMatches hs.1, hm.issueCountsExact hs.1 hs.2⟩)
    fun s => ⟨storeMatches_cold s, issueCountsExact_cold s⟩
  have hbuffer := reset_meets (P := fun s => s.StoreMatches ∧ s.BufferMatches)
    (fun _ _ hm hs => ⟨hm.storeMatches hs.1, hm.bufferMatches hs.1 hs.2⟩)
    fun s => ⟨storeMatches_cold s, bufferMatches_cold s⟩
  have hurgency := reset_meets (P := UrgencyLaw) (fun _ _ hm => hm.urgencyLaw) urgencyLaw_cold
  exact ⟨reset_ready, reset_meets (fun _ _ hm => hm.streamsInRange) streamsInRange_cold,
    reset_meets (fun _ _ hm => hm.timersInRange) timersInRange_cold,
    reset_meets (fun _ _ hm => hm.pagesOrdered) pagesOrdered_cold,
    reset_meets (fun _ _ hm => hm.drainLawful) drainLawful_cold,
    reset_meets (fun _ _ hm => hm.pendingCopies) pendingCopies_cold, notices_cold_lawful,
    reset_meets (fun _ _ hm => hm.withinCapacity) withinCapacity_cold, hmatch, hcounts.2, hbuffer.2, List.Pairwise.nil,
    hurgency.1, hurgency.2, fun hr => by cases hr⟩

end Sys2Proof.Proofs
end

section
/-! The address map of the register window (12.3) and the bits of a command word (12.4). -/

namespace Sys2Proof

open Machine

/-! ### Command words (12.4) -/

theorem toNat_append_eq {n m : Nat} (x : BitVec n) (y : BitVec m) : (x ++ y).toNat = x.toNat * 2 ^ m + y.toNat := by
  rw [BitVec.toNat_append, ← Nat.shiftLeft_add_eq_or_of_lt y.isLt, Nat.shiftLeft_eq]

theorem extract_low (w : Word) (k : Nat) : w.extractLsb' 0 k = BitVec.ofNat k w.toNat := by
  apply BitVec.eq_of_toNat_eq
  rw [BitVec.extractLsb'_toNat, BitVec.toNat_ofNat, Nat.shiftRight_zero]

theorem extract_code (w : Word) : (w.extractLsb' 24 8).toNat = w.toNat / 2 ^ 24 := by
  have hw := w.isLt
  rw [BitVec.extractLsb'_toNat, Nat.shiftRight_eq_div_pow]
  omega

theorem extract_operation (w : Word) : w.extractLsb' 8 3 = BitVec.ofNat 3 (w.toNat / 2 ^ 8) := by
  apply BitVec.eq_of_toNat_eq
  rw [BitVec.extractLsb'_toNat, BitVec.toNat_ofNat, Nat.shiftRight_eq_div_pow]

theorem clear_bit (w : Word) : w.getLsbD 8 = (w.toNat / 2 ^ 8 % 2 == 1) := by
  rw [BitVec.getLsbD, Nat.testBit_eq_decide_div_mod_eq]
  rfl

/-- The command that a word spells, by the word's number. -/
theorem decodeCommand_eq (w : Word) :
    decodeCommand w =
      let code := w.toNat / 2 ^ 24
      if code = 1 then .install (Fin.ofNat 32 (w.toNat % 32))
      else if code = 2 then .remove (Fin.ofNat 32 (w.toNat % 32))
      else if code = 3 then .applyNow (BitVec.ofNat 16 w.toNat)
      else if code = 4 then .discardPending (BitVec.ofNat 16 w.toNat)
      else if code = 5 then .streamOn (BitVec.ofNat 16 w.toNat)
      else if code = 6 then .streamOff (BitVec.ofNat 16 w.toNat)
      else if code = 7 then .timerCmd (BitVec.ofNat 4 w.toNat) (BitVec.ofNat 3 (w.toNat / 2 ^ 8))
      else if code = 8 then .setMode (BitVec.ofNat 2 w.toNat)
      else if code = 9 then .warmReset
      else if code = 10 then .snapshot (Fin.ofNat 16 w.toNat) (w.toNat / 2 ^ 8 % 2 == 1)
      else .unknown w := by
  have hindex : Fin.ofNat 32 (w.toNat % 32) = Fin.ofNat 32 w.toNat := Fin.ext (Nat.mod_mod _ _)
  unfold decodeCommand
  simp only [extract_low, extract_code, extract_operation, clear_bit, hindex]
  split <;> simp_all

/-- The code of a command (12.4). -/
def Command.code : Command → Nat
  | .install _ => 1
  | .remove _ => 2
  | .applyNow _ => 3
  | .discardPending _ => 4
  | .streamOn _ => 5
  | .streamOff _ => 6
  | .timerCmd _ _ => 7
  | .setMode _ => 8
  | .warmReset => 9
  | .snapshot _ _ => 10
  | .unknown w => w.toNat / 2 ^ 24

/-- The number in the 24 bits below a command's code (12.4). -/
def Command.operands : Command → Nat
  | .install i | .remove i => i.val
  | .applyNow m | .discardPending m | .streamOn m | .streamOff m => m.toNat
  | .timerCmd m op => 2 ^ 8 * op.toNat + m.toNat
  | .setMode c => c.toNat
  | .warmReset => 0
  | .snapshot n clear => 2 ^ 8 * clear.toNat + n.val
  | .unknown w => w.toNat % 2 ^ 24

theorem Command.operands_lt (c : Command) : c.operands < 2 ^ 24 := by
  cases c <;> simp only [Command.operands]
  case snapshot n clear => have := clear.toNat_lt; omega
  all_goals omega

/-- The encoder's word holds the code above the operands. -/
theorem encodeCommand_toNat (c : Command) : (encodeCommand c).toNat = c.code * 2 ^ 24 + c.operands := by
  cases c with
  | unknown w => exact (Nat.div_add_mod' w.toNat (2 ^ 24)).symm
  | warmReset => rfl
  | snapshot n clear =>
    have hn := n.isLt
    unfold encodeCommand
    rw [toNat_append_eq, toNat_append_eq, toNat_append_eq, BitVec.toNat_ofBool, BitVec.toNat_ofNat, BitVec.toNat_ofNat,
      BitVec.toNat_ofNat]
    simp only [Command.code, Command.operands]
    omega
  | install i | remove i =>
    have hi := i.isLt
    unfold encodeCommand
    rw [toNat_append_eq, BitVec.toNat_ofNat, BitVec.toNat_ofNat]
    simp only [Command.code, Command.operands]
    omega
  | applyNow m | discardPending m | streamOn m | streamOff m | setMode m =>
    unfold encodeCommand
    rw [toNat_append_eq, toNat_append_eq, BitVec.toNat_ofNat, BitVec.toNat_ofNat]
    simp only [Command.code, Command.operands]
    omega
  | timerCmd m op =>
    unfold encodeCommand
    rw [toNat_append_eq, toNat_append_eq, toNat_append_eq, toNat_append_eq, BitVec.toNat_ofNat, BitVec.toNat_ofNat,
      BitVec.toNat_ofNat]
    simp only [Command.code, Command.operands]
    omega

theorem encodeCommand_code (c : Command) : (encodeCommand c).toNat / 2 ^ 24 = c.code := by
  have := c.operands_lt
  rw [encodeCommand_toNat]
  omega

/-- The decoder gives the command back: the code is the command's, and so is each operand's field of bits. -/
theorem decode_encode (c : Command) (h : c.wellFormed = true) : decodeCommand (encodeCommand c) = c := by
  have hcode := encodeCommand_code c
  have hnum := encodeCommand_toNat c
  cases c with
  | unknown w =>
    show decodeCommand w = .unknown w
    exact decodeCommand_unknown (by simpa only [Command.wellFormed, Bool.not_eq_true'] using h)
  | warmReset => rfl
  | install i | remove i =>
    rw [decodeCommand_eq, hcode]
    refine congrArg _ (Fin.ext ?_)
    simp only [hnum, Command.code, Command.operands, Fin.val_ofNat]
    omega
  | applyNow m | discardPending m | streamOn m | streamOff m | setMode m =>
    rw [decodeCommand_eq, hcode]
    refine congrArg _ (BitVec.eq_of_toNat_eq ?_)
    simp only [hnum, Command.code, Command.operands, BitVec.toNat_ofNat]
    omega
  | timerCmd m op =>
    rw [decodeCommand_eq, hcode]
    refine congrArg₂ _ (BitVec.eq_of_toNat_eq ?_) (BitVec.eq_of_toNat_eq ?_) <;>
      simp only [hnum, Command.code, Command.operands, BitVec.toNat_ofNat] <;> omega
  | snapshot n clear =>
    rw [decodeCommand_eq, hcode]
    refine congrArg₂ _ (Fin.ext ?_) ?_
    · simp only [hnum, Command.code, Command.operands, Fin.val_ofNat]
      omega
    · have hbit : (encodeCommand (.snapshot n clear)).toNat / 2 ^ 8 % 2 = clear.toNat := by
        have := clear.toNat_lt
        have := n.isLt
        simp only [hnum, Command.code, Command.operands]
        omega
      rw [hbit]
      cases clear <;> rfl

/-! ### Word addresses (12.3) -/

theorem ofNat_addr_toNat {a : Nat} (h : a < 2 ^ 16) : (BitVec.ofNat 16 a).toNat = a := by
  rw [BitVec.toNat_ofNat]
  exact Nat.mod_eq_of_lt h

theorem addrKind_device {o : Nat} (h : o < 0x10) : addrKind (BitVec.ofNat 16 o) = deviceKind o := by
  unfold addrKind
  rw [ofNat_addr_toNat (by omega)]
  exact if_pos h

theorem addrKind_stream (n : StreamId) {o : Nat} (h : o < 0x40) :
    addrKind (BitVec.ofNat 16 (0x100 + 0x40 * n.val + o)) = streamKind n o := by
  have hn := n.isLt
  have hblock : Fin.ofNat 16 ((0x100 + 0x40 * n.val + o - 0x100) / 0x40) = n := Fin.ext (by rw [Fin.val_ofNat]; omega)
  have hoffset : (0x100 + 0x40 * n.val + o - 0x100) % 0x40 = o := by omega
  unfold addrKind
  rw [ofNat_addr_toNat (by omega)]
  dsimp only
  rw [if_neg (by omega), if_neg (by omega), if_neg (by omega), if_neg (by omega), if_neg (by omega), if_pos (by omega),
    hblock, hoffset]

theorem addrKind_timer (t : TimerId) {o : Nat} (h : o < 8) :
    addrKind (BitVec.ofNat 16 (0x500 + 8 * t.val + o)) = timerKind t o := by
  have ht := t.isLt
  have hblock : Fin.ofNat 4 ((0x500 + 8 * t.val + o - 0x500) / 8) = t := Fin.ext (by rw [Fin.val_ofNat]; omega)
  have hoffset : (0x500 + 8 * t.val + o - 0x500) % 8 = o := by omega
  unfold addrKind
  rw [ofNat_addr_toNat (by omega)]
  dsimp only
  rw [if_neg (by omega), if_neg (by omega), if_neg (by omega), if_neg (by omega), if_neg (by omega), if_neg (by omega),
    if_pos (by omega), hblock, hoffset]

theorem addrKind_notice (x : NoticeId) {o : Nat} (h : o < 8) :
    addrKind (BitVec.ofNat 16 (0x600 + 8 * x.val + o)) = noticeKind x o := by
  have hx := x.isLt
  have hblock : Fin.ofNat 24 ((0x600 + 8 * x.val + o - 0x600) / 8) = x := Fin.ext (by rw [Fin.val_ofNat]; omega)
  have hoffset : (0x600 + 8 * x.val + o - 0x600) % 8 = o := by omega
  unfold addrKind
  rw [ofNat_addr_toNat (by omega)]
  dsimp only
  rw [if_neg (by omega), if_neg (by omega), if_neg (by omega), if_neg (by omega), if_neg (by omega), if_neg (by omega),
    if_neg (by omega), if_neg (by omega), if_pos (by omega), hblock, hoffset]

theorem paramAt_offset (p : Param) : paramAt p.offset = some p := by cases p <;> rfl

theorem Param.offset_lt (p : Param) : p.offset < 0xC := by cases p <;> decide

theorem paramAt_some {o : Nat} {p : Param} (h : paramAt o = some p) : o = p.offset := by
  unfold paramAt at h
  split at h <;> cases h <;> rfl

theorem stagingAt_offset (f : StagingField) : stagingAt f.offset = some f := by cases f <;> rfl

theorem StagingField.offset_lt (f : StagingField) : f.offset < 6 := by cases f <;> decide

theorem stagingAt_some {o : Nat} {f : StagingField} (h : stagingAt o = some f) : o = f.offset := by
  unfold stagingAt at h
  split at h <;> cases h <;> rfl

theorem paramAt_ne_none {o : Nat} : paramAt o ≠ none ↔ o ≤ 0xB := by
  constructor
  · intro h
    obtain ⟨p, hp⟩ := Option.ne_none_iff_exists'.mp h
    have := p.offset_lt
    rw [paramAt_some hp]
    omega
  · intro h
    interval_cases o <;> exact Option.some_ne_none _

theorem stagingAt_ne_none {o : Nat} : stagingAt o ≠ none ↔ o ≤ 5 := by
  constructor
  · intro h
    obtain ⟨f, hf⟩ := Option.ne_none_iff_exists'.mp h
    have := f.offset_lt
    rw [stagingAt_some hf]
    omega
  · intro h
    interval_cases o <;> exact Option.some_ne_none _

theorem addrKind_staging (f : StagingField) : addrKind (BitVec.ofNat 16 (0x020 + f.offset)) = .writable (.staging f) := by
  have hf := f.offset_lt
  unfold addrKind
  rw [ofNat_addr_toNat (by omega)]
  dsimp only
  rw [if_neg (by omega), if_neg (by omega), if_pos (by omega), Nat.add_sub_cancel_left, stagingAt_offset]

/-- The word at a register's address is the register (12.3). -/
theorem addrKind_addr (r : Reg) : addrKind r.addr = .writable r := by
  cases r with
  | staging f => exact addrKind_staging f
  | pending n p =>
    refine (addrKind_stream n (p.offset_lt.trans (by decide))).trans ?_
    unfold streamKind
    rw [paramAt_offset]
  | frameLength t =>
    show addrKind (BitVec.ofNat 16 (0x502 + 8 * t.val)) = _
    rw [show 0x502 + 8 * t.val = 0x500 + 8 * t.val + 2 by omega]
    exact addrKind_timer t (by decide)
  | clockSource t =>
    show addrKind (BitVec.ofNat 16 (0x505 + 8 * t.val)) = _
    rw [show 0x505 + 8 * t.val = 0x500 + 8 * t.val + 5 by omega]
    exact addrKind_timer t (by decide)
  | syncMode t =>
    show addrKind (BitVec.ofNat 16 (0x506 + 8 * t.val)) = _
    rw [show 0x506 + 8 * t.val = 0x500 + 8 * t.val + 6 by omega]
    exact addrKind_timer t (by decide)
  | winSelect w => revert w; decide
  | cause x => exact addrKind_notice x (o := 0) (by decide)
  | notice f =>
    cases f with
    | clearStyle => rfl
    | threshold => rfl
    | enable x =>
      show addrKind (BitVec.ofNat 16 (0x601 + 8 * x.val)) = _
      rw [show 0x601 + 8 * x.val = 0x600 + 8 * x.val + 1 by omega]
      exact addrKind_notice x (by decide)
    | level x =>
      show addrKind (BitVec.ofNat 16 (0x602 + 8 * x.val)) = _
      rw [show 0x602 + 8 * x.val = 0x600 + 8 * x.val + 2 by omega]
      exact addrKind_notice x (by decide)
    | route x =>
      show addrKind (BitVec.ofNat 16 (0x603 + 8 * x.val)) = _
      rw [show 0x603 + 8 * x.val = 0x600 + 8 * x.val + 3 by omega]
      exact addrKind_notice x (by decide)
    | notifyAfter x =>
      show addrKind (BitVec.ofNat 16 (0x604 + 8 * x.val)) = _
      rw [show 0x604 + 8 * x.val = 0x600 + 8 * x.val + 4 by omega]
      exact addrKind_notice x (by decide)
  | handshakeLimit => rfl
  | ageTap => rfl
  | drainLimit => rfl

theorem deviceKind_writable {o : Nat} {r : Reg} (h : deviceKind o = .writable r) : r.addr = BitVec.ofNat 16 o := by
  unfold deviceKind at h
  split at h <;> cases h <;> rfl

theorem streamKind_writable {n : StreamId} {o : Nat} {r : Reg} (h : streamKind n o = .writable r) :
    r.addr = BitVec.ofNat 16 (0x100 + 0x40 * n.val + o) := by
  unfold streamKind at h
  split at h
  · next p hp => cases h; rw [paramAt_some hp]; rfl
  · split at h <;> cases h

theorem timerKind_writable {t : TimerId} {o : Nat} {r : Reg} (h : timerKind t o = .writable r) :
    r.addr = BitVec.ofNat 16 (0x500 + 8 * t.val + o) := by
  unfold timerKind at h
  split at h <;> cases h <;> revert t <;> decide

theorem noticeKind_writable {x : NoticeId} {o : Nat} {r : Reg} (h : noticeKind x o = .writable r) :
    r.addr = BitVec.ofNat 16 (0x600 + 8 * x.val + o) := by
  unfold noticeKind at h
  split at h <;> cases h <;> revert x <;> decide

/-- The part of the window in which an address lies (12.3). -/
inductive Region (b : WordAddr) : Prop
  | device (h : b.toNat < 0x10) (hk : addrKind b = deviceKind b.toNat)
  | staging (f : StagingField) (h : b.toNat = 0x020 + f.offset) (hk : addrKind b = .writable (.staging f))
  | matchList (h : 0x040 ≤ b.toNat ∧ b.toNat < 0x0C0) (hk : addrKind b = .readOnly)
  | stream (n : StreamId) (o : Nat) (ho : o < 0x40) (h : b.toNat = 0x100 + 0x40 * n.val + o)
      (hk : addrKind b = streamKind n o)
  | timer (t : TimerId) (o : Nat) (ho : o < 8) (h : b.toNat = 0x500 + 8 * t.val + o) (hk : addrKind b = timerKind t o)
  | notice (x : NoticeId) (o : Nat) (ho : o < 8) (h : b.toNat = 0x600 + 8 * x.val + o) (hk : addrKind b = noticeKind x o)
  | status (h : (0x700 ≤ b.toNat ∧ b.toNat < 0x703) ∨ (0x780 ≤ b.toNat ∧ b.toNat < 0x78B)) (hk : addrKind b = .readOnly)
  | gap (h : (0x010 ≤ b.toNat ∧ b.toNat < 0x020) ∨ (0x026 ≤ b.toNat ∧ b.toNat < 0x040) ∨
      (0x0C0 ≤ b.toNat ∧ b.toNat < 0x100) ∨ (0x520 ≤ b.toNat ∧ b.toNat < 0x600) ∨ (0x6C0 ≤ b.toNat ∧ b.toNat < 0x700) ∨
      (0x703 ≤ b.toNat ∧ b.toNat < 0x780) ∨ 0x78B ≤ b.toNat) (hk : addrKind b = .unmapped)

theorem region (b : WordAddr) : Region b := by
  have hk : addrKind b = addrKind b := rfl
  have hb : BitVec.ofNat 16 b.toNat = b := BitVec.ofNat_toNat _ _
  conv at hk => rhs; unfold addrKind
  dsimp only at hk
  by_cases h1 : b.toNat < 0x010
  · rw [if_pos h1] at hk; exact .device h1 hk
  rw [if_neg h1] at hk
  by_cases h2 : b.toNat < 0x020
  · rw [if_pos h2] at hk; exact .gap (by omega) hk
  rw [if_neg h2] at hk
  by_cases h3 : b.toNat < 0x040
  · rw [if_pos h3] at hk
    cases hf : stagingAt (b.toNat - 0x020) with
    | some f =>
      rw [hf] at hk
      have := stagingAt_some hf
      exact .staging f (by omega) hk
    | none =>
      rw [hf] at hk
      have : ¬ b.toNat - 0x020 ≤ 5 := fun hle => stagingAt_ne_none.mpr hle hf
      exact .gap (by omega) hk
  rw [if_neg h3] at hk
  by_cases h4 : b.toNat < 0x0C0
  · rw [if_pos h4] at hk; exact .matchList (by omega) hk
  rw [if_neg h4] at hk
  by_cases h5 : b.toNat < 0x100
  · rw [if_pos h5] at hk; exact .gap (by omega) hk
  rw [if_neg h5] at hk
  by_cases h6 : b.toNat < 0x500
  · rw [if_pos h6] at hk
    exact .stream _ _ (Nat.mod_lt _ (by decide)) (by rw [Fin.val_ofNat]; omega) hk
  rw [if_neg h6] at hk
  by_cases h7 : b.toNat < 0x520
  · rw [if_pos h7] at hk
    exact .timer _ _ (Nat.mod_lt _ (by decide)) (by rw [Fin.val_ofNat]; omega) hk
  rw [if_neg h7] at hk
  by_cases h8 : b.toNat < 0x600
  · rw [if_pos h8] at hk; exact .gap (by omega) hk
  rw [if_neg h8] at hk
  by_cases h9 : b.toNat < 0x6C0
  · rw [if_pos h9] at hk
    exact .notice _ _ (Nat.mod_lt _ (by decide)) (by rw [Fin.val_ofNat]; omega) hk
  rw [if_neg h9] at hk
  by_cases h10 : b.toNat < 0x700
  · rw [if_pos h10] at hk; exact .gap (by omega) hk
  rw [if_neg h10] at hk
  by_cases h11 : b.toNat < 0x703
  · rw [if_pos h11] at hk; exact .status (by omega) hk
  rw [if_neg h11] at hk
  by_cases h12 : b.toNat < 0x780
  · rw [if_pos h12] at hk; exact .gap (by omega) hk
  rw [if_neg h12] at hk
  by_cases h13 : b.toNat < 0x78B
  · rw [if_pos h13] at hk; exact .status (by omega) hk
  rw [if_neg h13] at hk
  exact .gap (by omega) hk

/-- A register stands at no address but its own. -/
theorem addr_of_writable {b : WordAddr} {r : Reg} (h : addrKind b = .writable r) : r.addr = b := by
  have hb : BitVec.ofNat 16 b.toNat = b := BitVec.ofNat_toNat _ _
  rcases region b with ⟨-, hk⟩ | ⟨f, ha, hk⟩ | ⟨-, hk⟩ | ⟨n, o, -, ha, hk⟩ | ⟨t, o, -, ha, hk⟩ | ⟨x, o, -, ha, hk⟩ |
    ⟨-, hk⟩ | ⟨-, hk⟩ <;> rw [hk] at h
  · rw [← hb]; exact deviceKind_writable h
  · cases h; rw [← hb, ha]; rfl
  · cases h
  · rw [← hb, ha]; exact streamKind_writable h
  · rw [← hb, ha]; exact timerKind_writable h
  · rw [← hb, ha]; exact noticeKind_writable h
  · cases h
  · cases h

theorem writable_iff (b : WordAddr) (r : Reg) : addrKind b = .writable r ↔ r.addr = b :=
  ⟨addr_of_writable, fun h => h ▸ addrKind_addr r⟩

/-- A register whose address is a number stands there and at no other address. -/
theorem stands_of_addr {a : Nat} {r : Reg} (ha : a < 2 ^ 16) (h : r.addr = BitVec.ofNat 16 a) :
    r.addr = BitVec.ofNat 16 a ∧ ∀ b : WordAddr, addrKind b = .writable r ↔ b.toNat = a := by
  refine ⟨h, fun b => ?_⟩
  rw [writable_iff, h, ← BitVec.toNat_inj, ofNat_addr_toNat ha, eq_comm]

theorem deviceKind_command {o : Nat} : deviceKind o = .command ↔ o = 1 := by
  unfold deviceKind
  split <;> simp_all

theorem streamKind_command (n : StreamId) (o : Nat) : streamKind n o ≠ .command := by
  unfold streamKind
  split
  · exact RegKind.noConfusion
  · split <;> exact RegKind.noConfusion

theorem timerKind_command (t : TimerId) (o : Nat) : timerKind t o ≠ .command := by
  unfold timerKind
  split <;> exact RegKind.noConfusion

theorem noticeKind_command (x : NoticeId) (o : Nat) : noticeKind x o ≠ .command := by
  unfold noticeKind
  split <;> exact RegKind.noConfusion

/-- The command register stands at 001h alone. -/
theorem addrKind_command (b : WordAddr) : addrKind b = .command ↔ b.toNat = 1 := by
  rcases region b with ⟨ha, hk⟩ | ⟨f, ha, hk⟩ | ⟨ha, hk⟩ | ⟨n, o, -, ha, hk⟩ | ⟨t, o, -, ha, hk⟩ | ⟨x, o, -, ha, hk⟩ |
    ⟨ha, hk⟩ | ⟨ha, hk⟩ <;> rw [hk]
  · exact deviceKind_command
  · exact ⟨RegKind.noConfusion, fun _ => by omega⟩
  · exact ⟨RegKind.noConfusion, fun _ => by omega⟩
  · exact ⟨fun h => absurd h (streamKind_command n o), fun _ => by omega⟩
  · exact ⟨fun h => absurd h (timerKind_command t o), fun _ => by omega⟩
  · exact ⟨fun h => absurd h (noticeKind_command x o), fun _ => by omega⟩
  · exact ⟨RegKind.noConfusion, fun _ => by omega⟩
  · exact ⟨RegKind.noConfusion, fun _ => by omega⟩

theorem deviceKind_mapped (o : Nat) : deviceKind o ≠ .unmapped := by
  unfold deviceKind
  split <;> exact RegKind.noConfusion

theorem streamKind_mapped (n : StreamId) (o : Nat) :
    streamKind n o ≠ .unmapped ↔
      o ≤ 0xB ∨ (0x10 ≤ o ∧ o ≤ 0x1B) ∨ (0x20 ≤ o ∧ o ≤ 0x23) ∨ (0x28 ≤ o ∧ o ≤ 0x2E) := by
  rw [← paramAt_ne_none]
  unfold streamKind
  cases paramAt o with
  | some p => simp
  | none =>
    dsimp only
    split <;> simp_all

theorem timerKind_mapped (t : TimerId) {o : Nat} (h : o < 8) : timerKind t o ≠ .unmapped ↔ o ≤ 6 := by
  interval_cases o <;> simp [timerKind]

theorem noticeKind_mapped (x : NoticeId) {o : Nat} (h : o < 8) : noticeKind x o ≠ .unmapped ↔ o ≤ 4 := by
  interval_cases o <;> simp [noticeKind]

/-- The addresses that the tables of 12.3 name. -/
theorem addrKind_mapped (b : WordAddr) :
    addrKind b ≠ .unmapped ↔
      b.toNat ≤ 0x00F ∨ (0x020 ≤ b.toNat ∧ b.toNat ≤ 0x025) ∨ (0x040 ≤ b.toNat ∧ b.toNat ≤ 0x0BF) ∨
      (0x100 ≤ b.toNat ∧ b.toNat ≤ 0x4FF ∧
        ((b.toNat - 0x100) % 0x40 ≤ 0x0B ∨ (0x10 ≤ (b.toNat - 0x100) % 0x40 ∧ (b.toNat - 0x100) % 0x40 ≤ 0x1B) ∨
          (0x20 ≤ (b.toNat - 0x100) % 0x40 ∧ (b.toNat - 0x100) % 0x40 ≤ 0x23) ∨
          (0x28 ≤ (b.toNat - 0x100) % 0x40 ∧ (b.toNat - 0x100) % 0x40 ≤ 0x2E))) ∨
      (0x500 ≤ b.toNat ∧ b.toNat ≤ 0x51F ∧ (b.toNat - 0x500) % 8 ≤ 6) ∨
      (0x600 ≤ b.toNat ∧ b.toNat ≤ 0x6BF ∧ (b.toNat - 0x600) % 8 ≤ 4) ∨
      (0x700 ≤ b.toNat ∧ b.toNat ≤ 0x702) ∨ (0x780 ≤ b.toNat ∧ b.toNat ≤ 0x78A) := by
  rcases region b with ⟨ha, hk⟩ | ⟨f, ha, hk⟩ | ⟨ha, hk⟩ | ⟨n, o, ho, ha, hk⟩ | ⟨t, o, ho, ha, hk⟩ | ⟨x, o, ho, ha, hk⟩ |
    ⟨ha, hk⟩ | ⟨ha, hk⟩ <;> rw [hk]
  · exact iff_of_true (deviceKind_mapped _) (by omega)
  · have := f.offset_lt
    exact iff_of_true RegKind.noConfusion (by omega)
  · exact iff_of_true RegKind.noConfusion (by omega)
  · have := n.isLt
    rw [streamKind_mapped]
    omega
  · have := t.isLt
    rw [timerKind_mapped t ho]
    omega
  · have := x.isLt
    rw [noticeKind_mapped x ho]
    omega
  · exact iff_of_true RegKind.noConfusion (by omega)
  · exact iff_of_false (fun h => h rfl) (by omega)

end Sys2Proof

namespace Sys2Proof.Proofs

open Sys2Proof Sys2Proof.Machine

/-- Settles O49. -/
theorem commandWordsDecode : Obligations.CommandWordsDecode := decode_encode

/-- Settles O50: each register stands at the number 12.3 gives it, by its block and its offset there. -/
theorem wordsAreReadByTheirBits : Obligations.WordsAreReadByTheirBits := by
  refine ⟨stands_of_addr (by decide) rfl, stands_of_addr (by decide) rfl, stands_of_addr (by decide) rfl,
    stands_of_addr (by decide) rfl, stands_of_addr (by decide) rfl, fun w => ?_, fun i f hf => ?_, fun n i p hp => ?_,
    fun x => ?_, fun x => ?_, addrKind_addr, fun r r' h => ?_, addrKind_command, addrKind_mapped, decodeCommand_eq⟩
  · have := w.isLt
    exact stands_of_addr (by omega) rfl
  · have hi : f.offset = i ∧ i < 6 := by
      have hlt := (List.getElem?_eq_some_iff.mp hf).1
      simp only [List.length_cons, List.length_nil] at hlt
      interval_cases i <;> cases hf <;> exact ⟨rfl, by decide⟩
    obtain ⟨rfl, -⟩ := hi
    have := f.offset_lt
    exact stands_of_addr (by omega) rfl
  · have hi : p.offset = i := by
      have hlt := (List.getElem?_eq_some_iff.mp hp).1
      simp only [List.length_cons, List.length_nil] at hlt
      interval_cases i <;> cases hp <;> rfl
    subst hi
    have := p.offset_lt
    have := n.isLt
    exact stands_of_addr (by omega) rfl
  · have := x.isLt
    exact ⟨stands_of_addr (by omega) rfl, stands_of_addr (by omega) rfl, stands_of_addr (by omega) rfl⟩
  · have := x.isLt
    exact ⟨stands_of_addr (by omega) rfl, stands_of_addr (by omega) rfl, stands_of_addr (by omega) rfl,
      stands_of_addr (by omega) rfl, stands_of_addr (by omega) rfl⟩
  · have hk := addrKind_addr r
    rw [h, addrKind_addr] at hk
    exact (RegKind.writable.inj hk).symm

end Sys2Proof.Proofs
end

section
/-! Words of a WRITE frame: where they act (12.3), and what a number written to each register does (R186). -/

namespace Sys2Proof.Machine

/-! ### Fields by their numbers (12.3) -/

theorem numUpTo_of_le {n v : Nat} (h : v ≤ n) : numUpTo n v = some v := if_pos h
theorem numUpTo_of_lt {n v : Nat} (h : n < v) : numUpTo n v = none := if_neg (Nat.not_le.mpr h)
theorem numFromOne_of_mem {n v : Nat} (h : 1 ≤ v ∧ v ≤ n) : numFromOne n v = some v := if_pos h
theorem numFromOne_of_not_mem {n v : Nat} (h : ¬ (1 ≤ v ∧ v ≤ n)) : numFromOne n v = none := if_neg h

/-- A reader of codes up to most gives for each the value of that code, and none above. -/
structure Codes {α : Type} (read : Nat → Option α) (code : α → Nat) (most : Nat) : Prop where
  some : ∀ v ≤ most, ∃ x, read v = Option.some x ∧ code x = v
  none : ∀ v, most < v → read v = Option.none

theorem codes_numUpTo (most : Nat) : Codes (numUpTo most) id most :=
  ⟨fun v hv => ⟨v, numUpTo_of_le hv, rfl⟩, fun _ hv => numUpTo_of_lt hv⟩

theorem codes_finBelow (k : Nat) [NeZero k] : Codes (finBelow k) Fin.val (k - 1) := by
  have hk : 0 < k := Nat.pos_of_neZero k
  refine ⟨fun v hv => ⟨Fin.ofNat k v, if_pos (by omega), Nat.mod_eq_of_lt (by omega)⟩, fun v hv => if_neg (by omega)⟩

theorem codes_flag : Codes flagOf flagCode 1 :=
  ⟨fun v hv => by interval_cases v <;> exact ⟨_, rfl, rfl⟩, fun v hv => by unfold flagOf; split <;> simp_all⟩

theorem codes_policy : Codes policyOf Policy.code 2 :=
  ⟨fun v hv => by interval_cases v <;> exact ⟨_, rfl, rfl⟩, fun v hv => by unfold policyOf; split <;> simp_all⟩

theorem codes_creditMode : Codes creditModeOf CreditMode.code 1 :=
  ⟨fun v hv => by interval_cases v <;> exact ⟨_, rfl, rfl⟩, fun v hv => by unfold creditModeOf; split <;> simp_all⟩

theorem codes_ageAction : Codes ageActionOf AgeAction.code 1 :=
  ⟨fun v hv => by interval_cases v <;> exact ⟨_, rfl, rfl⟩, fun v hv => by unfold ageActionOf; split <;> simp_all⟩

theorem codes_kindFilter : Codes kindFilterOf KindFilter.code 2 :=
  ⟨fun v hv => by interval_cases v <;> exact ⟨_, rfl, rfl⟩, fun v hv => by unfold kindFilterOf; split <;> simp_all⟩

theorem codes_route : Codes routeOf Route.code 1 :=
  ⟨fun v hv => by interval_cases v <;> exact ⟨_, rfl, rfl⟩, fun v hv => by unfold routeOf; split <;> simp_all⟩

theorem codes_clearStyle : Codes clearStyleOf ClearStyle.code 1 :=
  ⟨fun v hv => by interval_cases v <;> exact ⟨_, rfl, rfl⟩, fun v hv => by unfold clearStyleOf; split <;> simp_all⟩

theorem codes_syncMode : Codes syncModeOf SyncMode.code 2 :=
  ⟨fun v hv => by interval_cases v <;> exact ⟨_, rfl, rfl⟩, fun v hv => by unfold syncModeOf; split <;> simp_all⟩

/-- A field that takes the codes of a reader and keeps every other field. -/
theorem Codes.field {α β γ : Type} {get : Nat → Option α} {code : α → Nat} {most v : Nat} (h : Codes get code most)
    {read : β → γ → Nat} {f : γ} {b : β} {set : α → β} (hv : v ≤ most) (hf : ∀ x, code x = v → read (set x) f = v)
    (hg : ∀ x g, g ≠ f → read (set x) g = read b g) :
    ∃ b', (get v).map set = Option.some b' ∧ read b' f = v ∧ ∀ g, g ≠ f → read b' g = read b g := by
  obtain ⟨x, hx, hc⟩ := h.some v hv
  exact ⟨set x, by rw [hx]; rfl, hf x hc, hg x⟩

/-! ### What each field takes (R7, R14, R140) -/

theorem staging_write_some (m : MatchRule) (f : StagingField) {v : Nat} (h : v ≤ stagingMost f) :
    ∃ m', m.write f v = some m' ∧ m'.read f = v ∧ ∀ g, g ≠ f → m'.read g = m.read g := by
  cases f
  case sourceValue | sourceMask | pageBase | pageLimit =>
    refine (codes_numUpTo _).field h (fun x hx => ?_) fun x g hg => by cases g <;> simp_all [MatchRule.read]
    subst hx
    exact Nat.mod_eq_of_lt (Nat.lt_succ_of_le h)
  case kindFilter => exact codes_kindFilter.field h (fun _ hx => hx) fun x g hg => by cases g <;> simp_all [MatchRule.read]
  case stream => exact (codes_finBelow 16).field h (fun _ hx => hx) fun x g hg => by cases g <;> simp_all [MatchRule.read]

theorem staging_write_none (m : MatchRule) (f : StagingField) {v : Nat} (h : stagingMost f < v) : m.write f v = none := by
  cases f
  case sourceValue | sourceMask | pageBase | pageLimit => exact Option.map_eq_none_iff.mpr ((codes_numUpTo _).none v h)
  case kindFilter => exact Option.map_eq_none_iff.mpr (codes_kindFilter.none v h)
  case stream => exact Option.map_eq_none_iff.mpr ((codes_finBelow 16).none v h)

theorem params_write_some (q : Params) (p : Param) {v : Nat} (h : v ≤ paramMost p) :
    ∃ q', q.write p v = some q' ∧ q'.read p = v ∧ ∀ g, g ≠ p → q'.read g = q.read g := by
  cases p
  case policy => exact codes_policy.field h (fun _ hx => hx) fun x g hg => by cases g <;> simp_all [Params.read]
  case timer => exact (codes_finBelow 4).field h (fun _ hx => hx) fun x g hg => by cases g <;> simp_all [Params.read]
  case creditMode => exact codes_creditMode.field h (fun _ hx => hx) fun x g hg => by cases g <;> simp_all [Params.read]
  case ageAction => exact codes_ageAction.field h (fun _ hx => hx) fun x g hg => by cases g <;> simp_all [Params.read]
  case priority => exact (codes_finBelow 8).field h (fun _ hx => hx) fun x g hg => by cases g <;> simp_all [Params.read]
  case windowStart | windowEnd | reload | cap | holdLimit | issueLimit | ageLimit =>
    exact (codes_numUpTo _).field h (fun _ hx => hx) fun x g hg => by cases g <;> simp_all [Params.read]

theorem params_write_none (q : Params) (p : Param) {v : Nat} (h : paramMost p < v) : q.write p v = none := by
  cases p
  case policy => exact Option.map_eq_none_iff.mpr (codes_policy.none v h)
  case timer => exact Option.map_eq_none_iff.mpr ((codes_finBelow 4).none v h)
  case creditMode => exact Option.map_eq_none_iff.mpr (codes_creditMode.none v h)
  case ageAction => exact Option.map_eq_none_iff.mpr (codes_ageAction.none v h)
  case priority => exact Option.map_eq_none_iff.mpr ((codes_finBelow 8).none v h)
  case windowStart | windowEnd | reload | cap | holdLimit | issueLimit | ageLimit =>
    exact Option.map_eq_none_iff.mpr ((codes_numUpTo _).none v h)

/-- One source's setting rewritten leaves every other source's record. -/
theorem setting_updAt_other {nt : Notices} {x y : NoticeId} {f : NoticeSource → NoticeSource} (h : y ≠ x) :
    cell { nt with sources := updAt nt.sources x f }.sources y = cell nt.sources y := cell_updAt_other _ _ _ _ h

theorem notices_write_some (nt : Notices) (f : NoticeSetting) {v : Nat} (h : v ≤ settingMost f) :
    ∃ nt', nt.write f v = some nt' ∧ nt'.setting f = v ∧ ∀ g, g ≠ f → nt'.setting g = nt.setting g := by
  cases f
  case threshold => exact (codes_finBelow 8).field h (fun _ hx => hx) fun x g hg => by cases g <;> simp_all [Notices.setting]
  case clearStyle => exact codes_clearStyle.field h (fun _ hx => hx) fun x g hg => by cases g <;> simp_all [Notices.setting]
  case enable x =>
    refine codes_flag.field h (fun b hb => by simp [Notices.setting, hb]) fun b g hg => ?_
    cases g <;> simp only [Notices.setting, cell_updAt] <;> split <;> simp_all
  case level x =>
    refine (codes_finBelow 8).field h (fun b hb => by simp [Notices.setting, hb]) fun b g hg => ?_
    cases g <;> simp only [Notices.setting, cell_updAt] <;> split <;> simp_all
  case route x =>
    refine codes_route.field h (fun b hb => by simp [Notices.setting, hb]) fun b g hg => ?_
    cases g <;> simp only [Notices.setting, cell_updAt] <;> split <;> simp_all
  case notifyAfter x =>
    refine codes_flag.field h (fun b hb => by simp [Notices.setting, hb]) fun b g hg => ?_
    cases g <;> simp only [Notices.setting, cell_updAt] <;> split <;> simp_all

theorem notices_write_none (nt : Notices) (f : NoticeSetting) {v : Nat} (h : settingMost f < v) : nt.write f v = none := by
  cases f
  case enable | notifyAfter => exact Option.map_eq_none_iff.mpr (codes_flag.none v h)
  case level | threshold => exact Option.map_eq_none_iff.mpr ((codes_finBelow 8).none v h)
  case route => exact Option.map_eq_none_iff.mpr (codes_route.none v h)
  case clearStyle => exact Option.map_eq_none_iff.mpr (codes_clearStyle.none v h)

/-- A setting written leaves the cause sets and the handshake (R140). -/
theorem notices_write_rest {nt nt' : Notices} {f : NoticeSetting} {v : Nat} (h : nt.write f v = some nt') :
    (∀ x, (cell nt'.sources x).causes = (cell nt.sources x).causes) ∧ nt'.queue = nt.queue ∧ nt'.port = nt.port ∧
      nt'.hold = nt.hold ∧ nt'.timer = nt.timer ∧ nt'.limit = nt.limit := by
  unfold Notices.write at h
  cases f <;> (simp only [Option.map_eq_some_iff] at h; obtain ⟨y, -, rfl⟩ := h)
  case threshold | clearStyle => exact ⟨fun _ => rfl, rfl, rfl, rfl, rfl, rfl⟩
  all_goals
    refine ⟨fun x => ?_, rfl, rfl, rfl, rfl, rfl⟩
    rw [cell_updAt]
    split
    · next heq => subst heq; rfl
    · rfl

theorem codes_clockSource (t : TimerId) {v : Nat} (h : v < 18 ∨ (v = 18 ∧ t ≠ 0)) :
    ∃ c, clockSourceOf t v = some c ∧ c.code = v := by
  unfold clockSourceOf
  rcases h with hlt | ⟨rfl, ht⟩
  · by_cases h16 : v < 16
    · exact ⟨_, if_pos h16, Nat.mod_eq_of_lt h16⟩
    · have hv : v = 16 ∨ v = 17 := by omega
      rcases hv with rfl | rfl <;> exact ⟨_, rfl, rfl⟩
  · rw [if_neg (by decide), if_neg (by decide), if_neg (by decide), if_pos ⟨rfl, ht⟩]
    exact ⟨_, rfl, rfl⟩

theorem clockSourceOf_none (t : TimerId) {v : Nat} (h : 18 < v ∨ (v = 18 ∧ t = 0)) : clockSourceOf t v = none := by
  unfold clockSourceOf
  rw [if_neg (by omega), if_neg (by omega), if_neg (by omega), if_neg]
  rintro ⟨h18, ht⟩
  rcases h with h | ⟨-, ht0⟩
  · omega
  · exact ht ht0

/-! ### A word at a register's address (R182, R186) -/

variable {s : State}

/-- A word that the register takes with nothing to judge anew. -/
theorem regRow_settled {r : Reg} {v : Word} {u : State} (hr : s.TakesWord r.addr)
    (hf : Ev.writeReg ⟨s, []⟩ r v = ⟨u, []⟩) (hu : u.Settled) :
    exec (r.row v) s = .next { u with mgmt := u.mgmt.moved r.addr } := by
  rw [exec_regRow]
  exact word_settled hr hf hu

/-- A word whose number the register does not take records an error and does nothing else. -/
theorem regRow_failed {r : Reg} {v : Word} {err : MgmtError} (hr : s.TakesWord r.addr)
    (hf : Ev.writeReg ⟨s, []⟩ r v = Ev.record ⟨s, []⟩ err) :
    exec (r.row v) s = .next { s with mgmt := s.mgmt.failed r.addr err } :=
  regRow_settled (u := s.setMgmt { s.mgmt with lastError := err }) hr hf
    (hr.ready.settled.other rfl hr.ready.settled.noted.presented)

theorem writeField_some {α : Type} {e : Ev} {v : Option α} {f : α → State → State} {x : α} (h : v = some x) :
    e.writeField v f = e.map (f x) := by
  rw [h]
  rfl

theorem writeField_none {α : Type} {e : Ev} {v : Option α} {f : α → State → State} (h : v = none) :
    e.writeField v f = e.record .arg := by
  rw [h]
  rfl

theorem writeStopped_stopped {α : Type} {e : Ev} {t : TimerId} {v : Option α} {f : α → Timer → Timer} {x : α}
    (h : v = some x) (ht : (e.st.timer t).state = .stopped) : e.writeStopped t v f = e.map (fun s => s.onTimer t (f x)) := by
  rw [h]
  exact if_pos ht

theorem writeStopped_busy {α : Type} {e : Ev} {t : TimerId} {v : Option α} {f : α → Timer → Timer} {x : α}
    (h : v = some x) (ht : (e.st.timer t).state ≠ .stopped) : e.writeStopped t v f = e.record .busy := by
  rw [h]
  exact if_neg ht

theorem writeStopped_none {α : Type} {e : Ev} {t : TimerId} {v : Option α} {f : α → Timer → Timer} (h : v = none) :
    e.writeStopped t v f = e.record .arg := by
  rw [h]
  rfl

/-- A timer's record rewritten but for what windows read leaves a settled state settled. -/
theorem State.Settled.onTimer (h : s.Settled) {t : TimerId} {f : Timer → Timer}
    (hf : ∀ (p : Params), p.windowOpen (f (s.timer t)) = p.windowOpen (s.timer t)) : (s.onTimer t f).Settled := by
  refine h.congr rfl rfl id rfl rfl rfl rfl rfl rfl (fun n => ?_) (fun _ => rfl) (fun _ => rfl) (fun _ => rfl) (fun _ => rfl)
    h.noted.presented
  show ((s.stream n).live).windowOpen (cell (updAt s.timers t f) (s.stream n).live.timer) = _
  rw [cell_updAt]
  split
  · next heq => subst heq; exact hf _
  · rfl

/-- A stream's pending set rewritten leaves a settled state settled. -/
theorem State.Settled.onStream (h : s.Settled) {n : StreamId} {f : Stream → Stream}
    (hlive : (f (s.stream n)).live = (s.stream n).live) (hmode : (f (s.stream n)).mode = (s.stream n).mode)
    (hcredit : (f (s.stream n)).credit = (s.stream n).credit) (hnoted : (f (s.stream n)).noted = (s.stream n).noted) :
    (s.onStream n f).Settled := by
  have hcell : ∀ (β : Type) (g : Stream → β), g (f (s.stream n)) = g (s.stream n) →
      ∀ m, g ((s.onStream n f).stream m) = g (s.stream m) := by
    intro β g hg m
    show g (cell (updAt s.streams n f) m) = _
    rw [cell_updAt]
    split
    · next heq => subst heq; exact hg
    · rfl
  exact h.samePlan ⟨rfl, hcell _ _ hlive, hcell _ _ hmode, hcell _ _ hcredit⟩ (hcell _ _ hnoted)

end Sys2Proof.Machine

namespace Sys2Proof.Proofs

open Sys2Proof Sys2Proof.Machine

/-- Settles O39. -/
theorem stagingAndPendingWrites : Obligations.StagingAndPendingWrites := by
  refine fun s => ⟨fun f v hr hv => ?_, fun f v hr hv => ?_, fun n p v hr hv => ?_, fun n p v hr hv => ?_⟩
  · obtain ⟨m, hm, hread, hrest⟩ := staging_write_some s.staging f hv
    exact ⟨m, hread, hrest, regRow_settled (r := .staging f) (u := s.setStaging m) hr (writeField_some hm)
      (hr.ready.settled.other rfl hr.ready.settled.noted.presented)⟩
  · exact regRow_failed (r := .staging f) hr (writeField_none (staging_write_none _ f hv))
  · obtain ⟨q, hq, hread, hrest⟩ := params_write_some (s.stream n).pend p hv
    exact ⟨q, hread, hrest, regRow_settled (r := .pending n p) hr (writeField_some hq)
      (hr.ready.settled.onStream rfl rfl rfl rfl)⟩
  · exact regRow_failed (r := .pending n p) hr (writeField_none (params_write_none _ p hv))

/-- Settles O40. -/
theorem timerFieldWrites : Obligations.TimerFieldWrites := by
  refine fun s t v => ⟨fun hr => ⟨fun h1 h2 => ?_, fun h => ?_⟩, fun hr => ⟨fun hv hs => ?_, fun hv hs => ?_, fun hv => ?_⟩,
    fun hr => ⟨fun hv hs => ?_, fun hv hs => ?_, fun hv => ?_⟩⟩
  · exact regRow_settled (r := .frameLength t) hr (writeField_some (numFromOne_of_mem ⟨h1, h2⟩))
      (hr.ready.settled.onTimer fun _ => rfl)
  · exact regRow_failed (r := .frameLength t) hr (writeField_none (numFromOne_of_not_mem (by omega)))
  · obtain ⟨c, hc, hcode⟩ := codes_clockSource t hv
    exact ⟨c, hcode, regRow_settled (r := .clockSource t) hr (writeStopped_stopped hc hs)
      (hr.ready.settled.onTimer fun _ => rfl)⟩
  · obtain ⟨c, hc, -⟩ := codes_clockSource t hv
    exact regRow_failed (r := .clockSource t) hr (writeStopped_busy hc hs)
  · exact regRow_failed (r := .clockSource t) hr (writeStopped_none (clockSourceOf_none t hv))
  · obtain ⟨m, hm, hcode⟩ := codes_syncMode.some v.toNat (by omega)
    exact ⟨m, hcode, regRow_settled (r := .syncMode t) hr (writeStopped_stopped hm hs)
      (hr.ready.settled.onTimer fun _ => rfl)⟩
  · obtain ⟨m, hm, -⟩ := codes_syncMode.some v.toNat (by omega)
    exact regRow_failed (r := .syncMode t) hr (writeStopped_busy hm hs)
  · exact regRow_failed (r := .syncMode t) hr (writeStopped_none (codes_syncMode.none _ (by omega)))

end Sys2Proof.Proofs
end

section
/-! Words of a WRITE frame, continued: selects, taps, limits, notice settings, cause registers, and the words that act
nowhere (R181 to R183). -/

namespace Sys2Proof.Machine

/-! ### Cause registers (R139, 12.3) -/

/-- The causes of a source by their positions (12.3). -/
def sourceCauses (x : NoticeId) : List Cause :=
  if x.val < 16 then [.credit, .refused, .overflow, .expired, .memerr]
  else if x.val < 20 then [.wrap, .syncMissed]
  else if x.val = 20 then [.storeLack, .orderLack, .dataLack]
  else if x.val = 21 then [.hsOverflow, .timeout, .spurious]
  else if x.val = 22 then [.malformed, .stray]
  else [.rejected, .drainTimeout, .mgmtFrame]

/-- The cause at a position has the bit of the position. -/
theorem bit_of_sourceCauses (x : NoticeId) (i : Nat) (c : Cause) (h : (sourceCauses x)[i]? = some c) :
    c.bit.toNat = 2 ^ i := by
  have hlt : i < 5 := by
    have hlen : ∀ x, (sourceCauses x).length ≤ 5 := by decide
    exact (List.getElem?_eq_some_iff.mp h).1.trans_le (hlen x)
  have hall : ∀ (x : NoticeId) (i : Fin 5), ∀ c ∈ (sourceCauses x)[i.val]?, c.bit.toNat = 2 ^ i.val := by decide
  exact hall x ⟨i, hlt⟩ c h

/-- The mask of a source holds a bit for each of its causes. -/
theorem causeMask_bit (x : NoticeId) {i : Nat} (h : i < 5) :
    (causeMask x).getLsbD i = decide (i < (sourceCauses x).length) := by
  have hall : ∀ (x : NoticeId) (i : Fin 5), (causeMask x).getLsbD i.val = decide (i.val < (sourceCauses x).length) := by
    decide
  exact hall x ⟨i, h⟩

theorem writeCauses_oneClears {nt : Notices} (h : nt.clearStyle = .oneClears) (x : NoticeId) (v : Word) :
    nt.writeCauses x v = nt.clearCauses x v := by
  unfold Notices.writeCauses
  rw [h]

theorem writeCauses_direct {nt : Notices} (h : nt.clearStyle = .direct) (x : NoticeId) (v : Word) :
    nt.writeCauses x v = nt.placeCauses x v := by
  unfold Notices.writeCauses
  rw [h]

/-- A write to a cause register replaces one cause set (R145, R146). -/
theorem writeCauses_bits (nt : Notices) (x : NoticeId) (v : Word) :
    ∃ cs : CauseSet, nt.writeCauses x v = { nt with sources := updAt nt.sources x (fun q => { q with causes := cs }) } ∧
      ∀ i < 5, cs.getLsbD i =
        match nt.clearStyle with
        | .oneClears => (cell nt.sources x).causes.getLsbD i && !v.getLsbD i
        | .direct => v.getLsbD i && decide (i < (sourceCauses x).length) := by
  have hstyle : nt.clearStyle = .oneClears ∨ nt.clearStyle = .direct := by cases nt.clearStyle <;> decide
  rcases hstyle with hstyle | hstyle
  · refine ⟨(cell nt.sources x).causes &&& ~~~(v.extractLsb' 0 5), writeCauses_oneClears hstyle x v, fun i hi => ?_⟩
    simp only [hstyle, BitVec.getLsbD_and, BitVec.getLsbD_not, BitVec.getLsbD_extractLsb', hi, decide_true, Bool.true_and,
      Nat.zero_add]
  · refine ⟨v.extractLsb' 0 5 &&& causeMask x, writeCauses_direct hstyle x v, fun i hi => ?_⟩
    simp only [hstyle, BitVec.getLsbD_and, BitVec.getLsbD_extractLsb', hi, decide_true, Bool.true_and, Nat.zero_add,
      causeMask_bit x hi]

/-! ### Words that act nowhere (R181, R182) -/

theorem closeStart_settled {s : State} (h : s.Settled) (hm : s.dev.mode ≠ .draining) :
    Ev.closeStart { st := s, jobs := [] } = s := by
  rw [closeStart_eq_close, close_settled h]
  rw [discardResponse_held h.noted.response, fill_of_waits h.answers]
  exact drainWaits_of_mode hm

/-- An event without an effect of its own leaves a settled state as it is, and so does a request for a warm reset that is
none. -/
theorem happenCommand_idle {s : State} {c : Command} {f : Ev → Ev} (hr : s.Ready) (hf : f ⟨s, []⟩ = ⟨s, []⟩) :
    happenCommand c s f = .next s := by
  unfold happenCommand
  split
  · by_cases hm : s.dev.mode = .draining
    · rw [askReset_draining hr.released hm, hf, close_settled hr.settled]
    · rw [askReset_start hr.released hm, hf, closeStart_settled hr.settled hm]
  · exact event_settled hr.released hr.settled.drain hf hr.settled

theorem happen_idle {s : State} {f : Ev → Ev} (hr : s.Ready) (hf : f ⟨s, []⟩ = ⟨s, []⟩) : happen s f = .next s :=
  event_settled hr.released hr.settled.drain hf hr.settled

/-- A row that is a word of a WRITE frame is an event of a word at its target. -/
theorem exec_wordTarget {c : Instr} {a : WordAddr} (h : wordTarget c = some a) :
    (∃ f, ∀ s, exec c s = happen s (fun e => e.word a f)) ∨
    (∃ d f, (d = .warmReset → AsksReset c) ∧ ∀ s, exec c s = happenCommand d s (fun e => e.word a f)) := by
  cases c <;> cases h
  case stagingWrite f v => exact .inl ⟨_, exec_regRow (.staging f) v⟩
  case pendingWrite n p v => exact .inl ⟨_, exec_regRow (.pending n p) v⟩
  case frameLengthWrite t v => exact .inl ⟨_, exec_regRow (.frameLength t) v⟩
  case clockSourceWrite t v => exact .inl ⟨_, exec_regRow (.clockSource t) v⟩
  case syncModeWrite t v => exact .inl ⟨_, exec_regRow (.syncMode t) v⟩
  case winSelectWrite w v => exact .inl ⟨_, exec_regRow (.winSelect w) v⟩
  case noticeConfigWrite f v => exact .inl ⟨_, exec_regRow (.notice f) v⟩
  case causeClear x v => exact .inl ⟨_, exec_regRow (.cause x) v⟩
  case causeWriteDirect x v => exact .inl ⟨_, exec_regRow (.cause x) v⟩
  case handshakeLimitWrite v => exact .inl ⟨_, exec_regRow .handshakeLimit v⟩
  case ageTapWrite v => exact .inl ⟨_, exec_regRow .ageTap v⟩
  case drainLimitWrite v => exact .inl ⟨_, exec_regRow .drainLimit v⟩
  case registerWrite v =>
    by_cases ha : a = commandAddr
    · subst ha
      exact .inr ⟨_, _, fun hd => .inr (.inr (.inl ⟨v, rfl, hd⟩)), fun s => (exec_registerWrite _ v s).trans (if_pos rfl)⟩
    · exact .inl ⟨_, fun s => (exec_registerWrite a v s).trans (if_neg ha)⟩
  case install i => exact .inr ⟨_, _, Command.noConfusion, exec_commandRow (c := .install i) rfl⟩
  case remove i => exact .inr ⟨_, _, Command.noConfusion, exec_commandRow (c := .remove i) rfl⟩
  case applyNow m => exact .inr ⟨_, _, Command.noConfusion, exec_commandRow (c := .applyNow m) rfl⟩
  case discardPending m => exact .inr ⟨_, _, Command.noConfusion, exec_commandRow (c := .discardPending m) rfl⟩
  case streamOn m => exact .inr ⟨_, _, Command.noConfusion, exec_commandRow (c := .streamOn m) rfl⟩
  case streamOff m => exact .inr ⟨_, _, Command.noConfusion, exec_commandRow (c := .streamOff m) rfl⟩
  case start m => exact .inr ⟨_, _, Command.noConfusion, exec_commandRow (c := .timerCmd m 1) rfl⟩
  case stop m => exact .inr ⟨_, _, Command.noConfusion, exec_commandRow (c := .timerCmd m 2) rfl⟩
  case restart m => exact .inr ⟨_, _, Command.noConfusion, exec_commandRow (c := .timerCmd m 3) rfl⟩
  case startRestart m => exact .inr ⟨_, _, Command.noConfusion, exec_commandRow (c := .timerCmd m 4) rfl⟩
  case setMode code => exact .inr ⟨_, _, Command.noConfusion, exec_commandRow (c := .setMode code) rfl⟩
  case warmReset => exact .inr ⟨_, _, fun _ => .inr (.inl rfl), exec_commandRow (c := .warmReset) rfl⟩
  case snapshot n clear => exact .inr ⟨_, _, Command.noConfusion, exec_commandRow (c := .snapshot n clear) rfl⟩
  case unknownCommand w => exact .inr ⟨_, _, fun hd => .inr (.inr (.inr ⟨w, rfl, hd⟩)), exec_unknownCommand w⟩
  case timerCmdUnknownOperation m op => exact .inr ⟨_, _, Command.noConfusion, exec_timerCmdUnknownOperation m op⟩

/-- A word at another address than the frame's, in another frame or in none, changes nothing. -/
theorem exec_word_elsewhere {c : Instr} {a : WordAddr} {s : State} (h : wordTarget c = some a) (hr : s.Ready)
    (hf : s.mgmt.frame ≠ .writing a) : exec c s = .next s := by
  rcases exec_wordTarget h with ⟨f, hc⟩ | ⟨d, f, -, hc⟩ <;> rw [hc]
  · exact happen_idle hr (word_elsewhere hf)
  · exact happenCommand_idle hr (word_elsewhere hf)

theorem addrKind_commandAddr : addrKind commandAddr = .command := rfl

/-- What a word spells is well formed. -/
theorem decodeCommand_wellFormed (w : Word) : (decodeCommand w).wellFormed = true := by
  by_cases hn : commandCodeNamed (w.extractLsb' 24 8) = true
  · simp only [commandCodeNamed, extract_code, Bool.and_eq_true, decide_eq_true_eq] at hn
    rw [decodeCommand_eq]
    dsimp only
    split_ifs
    case neg => omega
    all_goals rfl
  · rw [decodeCommand_unknown (Bool.eq_false_iff.mpr hn)]
    simp only [Command.wellFormed, hn, Bool.not_false]

/-- A word at an address that no word writes records ADDR and does nothing else. -/
theorem registerWrite_addr {s : State} {a : WordAddr} (v : Word) (hr : s.TakesWord a)
    (h : addrKind a = .readOnly ∨ addrKind a = .unmapped) :
    exec (.registerWrite a v) s = .next { s with mgmt := s.mgmt.failed a .addr } := by
  have ha : a ≠ commandAddr := by
    rintro rfl
    rcases h with h | h <;> cases h
  have hword : ∀ e : Ev, e.wordAtAddr a v = e.record .addr := fun e => by
    unfold Ev.wordAtAddr
    rcases h with h | h <;> rw [h]
  rw [exec_registerWrite, if_neg ha]
  exact word_settled (u := s.setMgmt { s.mgmt with lastError := .addr }) hr (hword _)
    (hr.ready.settled.other rfl hr.ready.settled.noted.presented)

/-- At a writable register a word is the register's row. -/
theorem registerWrite_writable (r : Reg) (v : Word) (s : State) :
    exec (.registerWrite r.addr v) s = exec (r.row v) s := by
  have ha : r.addr ≠ commandAddr := fun h => by
    have hk := addrKind_addr r
    rw [h, addrKind_commandAddr] at hk
    cases hk
  have hword : (fun e : Ev => e.wordAtAddr r.addr v) = fun e => e.writeReg r v := funext fun e => by
    unfold Ev.wordAtAddr
    rw [addrKind_addr]
  rw [exec_registerWrite, if_neg ha, exec_regRow, hword]

/-- At the command register a word is the row of the command that it spells. -/
theorem registerWrite_command (v : Word) (s : State) :
    exec (.registerWrite commandAddr v) s = exec (decodeCommand v).row s := by
  rw [exec_registerWrite, if_pos rfl, exec_commandRow (decodeCommand_wellFormed v)]
  rfl

theorem readWord_elsewhere {e : Ev} {a : WordAddr} (ht : e.st.mgmt.frame ≠ .turnaround a)
    (hr : e.st.mgmt.frame ≠ .reading a) : e.readWord a = e :=
  if_neg fun h => h.elim ht hr

theorem winSelectOf_stream {n : StreamId} {v : Nat} (h : v = n.val) : winSelectOf v = some (some n) := by
  subst h
  exact (if_pos n.isLt).trans (congrArg some (congrArg some (Fin.ext (Nat.mod_eq_of_lt n.isLt))))

theorem winSelectOf_none {v : Nat} (h : v = 16) : winSelectOf v = some none := by subst h; rfl

theorem winSelectOf_above {v : Nat} (h : 16 < v) : winSelectOf v = none := by
  unfold winSelectOf
  rw [if_neg (by omega), if_neg (by omega)]

theorem winPin_iff (s : State) (w : Fin 4) : s.winPin w = true ↔ ∃ n, cell s.winSelect w = some n ∧ s.windowOpen n = true := by
  unfold State.winPin
  cases cell s.winSelect w with
  | none => simp
  | some n => simp

theorem finBelow_val {k : Nat} [NeZero k] {x : Fin k} {v : Nat} (h : v = x.val) : finBelow k v = some x := by
  subst h
  exact (if_pos x.isLt).trans (congrArg some (Fin.ext (Nat.mod_eq_of_lt x.isLt)))

end Sys2Proof.Machine

namespace Sys2Proof.Proofs

open Sys2Proof Sys2Proof.Machine

/-- Settles O38. -/
theorem wordsActByTheirAddress : Obligations.WordsActByTheirAddress := by
  refine fun s => ⟨fun a v hr h => registerWrite_addr v hr h, fun r v _ => registerWrite_writable r v s,
    fun v _ => registerWrite_command v s, fun c a hr h hf => exec_word_elsewhere h hr hf, fun a hr ht hf => ?_⟩
  rw [exec_unmappedRead]
  exact happen_idle hr (readWord_elsewhere ht hf)

/-- Settles O41. -/
theorem selectTapAndLimitWrites : Obligations.SelectTapAndLimitWrites := by
  refine ⟨winPin_iff, fun s v => ⟨fun w hr => ⟨fun n hn => ?_, fun hv => ?_, fun hv => ?_⟩,
    fun hr => ⟨fun k hk => ?_, fun hv => ?_⟩, fun hr => ⟨fun h1 h2 => ?_, fun hv => ?_⟩, fun hr => ⟨fun hv => ?_, fun hv => ?_⟩⟩⟩
  · exact regRow_settled (r := .winSelect w) hr (writeField_some (winSelectOf_stream hn))
      (hr.ready.settled.other rfl hr.ready.settled.noted.presented)
  · exact regRow_settled (r := .winSelect w) hr (writeField_some (winSelectOf_none hv))
      (hr.ready.settled.other rfl hr.ready.settled.noted.presented)
  · exact regRow_failed (r := .winSelect w) hr (writeField_none (winSelectOf_above hv))
  · exact regRow_settled (r := .ageTap) hr (writeField_some (finBelow_val hk))
      (hr.ready.settled.other rfl hr.ready.settled.noted.presented)
  · exact regRow_failed (r := .ageTap) hr (writeField_none ((codes_finBelow 16).none _ (by omega)))
  · exact regRow_settled (r := .handshakeLimit) hr (writeField_some (numFromOne_of_mem ⟨h1, h2⟩))
      (hr.ready.settled.other rfl hr.ready.settled.noted.presented)
  · exact regRow_failed (r := .handshakeLimit) hr (writeField_none (numFromOne_of_not_mem (by omega)))
  · exact regRow_settled (r := .drainLimit) hr (writeField_some (numUpTo_of_le hv))
      (hr.ready.settled.congr rfl rfl id rfl rfl rfl rfl rfl rfl (fun _ => rfl) (fun _ => rfl) (fun _ => rfl) (fun _ => rfl)
        (fun _ => rfl) hr.ready.settled.noted.presented)
  · exact regRow_failed (r := .drainLimit) hr (writeField_none (numUpTo_of_lt hv))

/-- Settles O42. -/
theorem noticeConfigWrites : Obligations.NoticeConfigWrites := by
  refine fun s f v hr => ⟨fun hv => ?_, fun hv => ?_⟩
  · obtain ⟨nt, hnt, hread, hother⟩ := notices_write_some s.nt f hv
    obtain ⟨hcauses, hqueue, hport, hhold, htimer, hlimit⟩ := notices_write_rest hnt
    have hpresented : nt.Presented := fun hp hh => by
      rw [hqueue]
      exact hr.ready.settled.noted.presented (hport ▸ hp) (hhold ▸ hh)
    exact ⟨nt, hread, hother, hcauses, hqueue, hport, hhold, htimer, hlimit,
      regRow_settled (r := .notice f) (u := s.setNt nt) hr (writeField_some hnt)
        (hr.ready.settled.other rfl hpresented)⟩
  · exact regRow_failed (r := .notice f) hr (writeField_none (notices_write_none _ f hv))

/-- Settles O43. -/
theorem causeRegisterWrites : Obligations.CauseRegisterWrites := by
  refine ⟨bit_of_sourceCauses, fun s x v c hr hc => ?_⟩
  have hrow : exec c s = exec ((Reg.cause x).row v) s := by rcases hc with rfl | rfl <;> rfl
  obtain ⟨cs, hcs, hbits⟩ := writeCauses_bits s.nt x v
  refine ⟨cs, ?_, hbits⟩
  rw [hrow]
  refine regRow_settled (r := .cause x) (u := s.setNt _) hr
    (congrArg (fun nt => (⟨s.setNt nt, []⟩ : Ev)) hcs) (hr.ready.settled.other rfl hr.ready.settled.noted.presented)

end Sys2Proof.Proofs
end

section
/-! Commands (12.4): the match list, the pending sets, the modes, the snapshot. -/

namespace Sys2Proof.Machine

variable {s u : State} {c : Command}

/-- A command word that leaves nothing to judge anew. -/
theorem commandRow_settled (hw : c.wellFormed = true) (hne : c ≠ .warmReset) (hr : s.TakesWord commandAddr)
    (hf : Ev.command ⟨s, []⟩ c = ⟨u, []⟩) (hu : u.Settled) :
    exec c.row s = .next { u with mgmt := u.mgmt.moved commandAddr } := by
  rw [exec_commandRow hw, happenCommand, if_neg hne]
  exact word_settled hr hf hu

/-- What a held response depends on. -/
theorem responseHeld_congr (h : s.responseHeld) (horder : u.order = s.order) (hresp : u.downResp = s.downResp) :
    u.responseHeld := by
  unfold State.responseHeld State.oldestDue
  rw [horder, hresp]
  exact h

/-- A command word that leaves the order table and the response on DOWN. -/
theorem commandRow_ends {jobs : List NoticeJob} (hw : c.wellFormed = true) (hne : c ≠ .warmReset)
    (hr : s.TakesWord commandAddr) (hf : Ev.command ⟨s, []⟩ c = ⟨u, jobs⟩) (horder : u.order = s.order)
    (hresp : u.downResp = s.downResp) :
    ∃ t, exec c.row s = .next t ∧ Ends { u with mgmt := u.mgmt.moved commandAddr } jobs t := by
  rw [exec_commandRow hw, happenCommand, if_neg hne]
  exact word_ends hr hf (responseHeld_congr hr.ready.settled.noted.response horder hresp)

/-- A command that is accepted and has an effect f beside. -/
theorem commandRow_accepted {f : State → State} (hw : c.wellFormed = true) (hne : c ≠ .warmReset)
    (hr : s.TakesWord commandAddr) (hf : Ev.command ⟨s, []⟩ c = (Ev.map ⟨s, []⟩ f).result .accepted)
    (horder : (f s).order = s.order) (hresp : (f s).downResp = s.downResp) :
    ∃ t, exec c.row s = .next t ∧ Ends { f s with mgmt := (f s).mgmt.resulted .accepted } [] t :=
  commandRow_ends (u := (f s).setMgmt { (f s).mgmt with cmdResult := .accepted }) hw hne hr hf horder hresp

/-- A command that is refused changes the result and the last error alone. -/
theorem happenCommand_refused {r : CmdResult} {f : Ev → Ev} (hne : c ≠ .warmReset) (hr : s.TakesWord commandAddr)
    (hf : f ⟨s, []⟩ = Ev.result ⟨s, []⟩ r) :
    happenCommand c s (fun e => e.word commandAddr f) = .next { s with mgmt := s.mgmt.resulted r } := by
  have h : f ⟨s, []⟩ = ⟨(Ev.result ⟨s, []⟩ r).st, []⟩ := by rw [hf]; cases r <;> rfl
  have hsettled : (Ev.result ⟨s, []⟩ r).st.Settled :=
    hr.ready.settled.other (by cases r <;> rfl) (by cases r <;> exact hr.ready.settled.noted.presented)
  rw [happenCommand, if_neg hne, word_settled hr h hsettled]
  cases r <;> rfl

theorem commandRow_refused {r : CmdResult} (hw : c.wellFormed = true) (hne : c ≠ .warmReset)
    (hr : s.TakesWord commandAddr) (hf : Ev.command ⟨s, []⟩ c = Ev.result ⟨s, []⟩ r) :
    exec c.row s = .next { s with mgmt := s.mgmt.resulted r } := by
  rw [exec_commandRow hw]
  exact happenCommand_refused hne hr hf

/-! ### The commands that are always accepted (12.4) -/

theorem command_remove (e : Ev) (i : Fin 32) :
    e.command (.remove i) =
      (e.map (fun s => s.setMatchList (updAt s.matchList i (fun m => { m with valid := false })))).result .accepted := rfl

theorem command_discardPending (e : Ev) (mask : StreamMask) :
    e.command (.discardPending mask) = (e.map (fun s => s.onStreams mask Stream.discard)).result .accepted := rfl

theorem command_streamOn (e : Ev) (mask : StreamMask) :
    e.command (.streamOn mask) =
      (e.map (fun s => s.onStreams mask (fun st => { st with mode := .on }))).result .accepted := rfl

theorem command_streamOff (e : Ev) (mask : StreamMask) :
    e.command (.streamOff mask) =
      (e.map (fun s => s.onStreams mask (fun st => { st with mode := .off }))).result .accepted := rfl

/-- A command that is accepted and leaves nothing to judge anew. -/
theorem commandRow_accepted_settled {f : State → State} (hw : c.wellFormed = true) (hne : c ≠ .warmReset)
    (hr : s.TakesWord commandAddr) (hf : Ev.command ⟨s, []⟩ c = (Ev.map ⟨s, []⟩ f).result .accepted)
    (hu : (f s).Settled) : exec c.row s = .next { f s with mgmt := (f s).mgmt.resulted .accepted } :=
  commandRow_settled (u := (f s).setMgmt { (f s).mgmt with cmdResult := .accepted }) hw hne hr hf
    (hu.other rfl hu.noted.presented)

/-! ### The pending sets and the modes (R18, R19, R26) -/

theorem onStreams_eq (s : State) (mask : StreamMask) (f : Stream → Stream) :
    s.onStreams mask f =
      { s with streams := mapAll s.streams (fun n st => if mask.getLsbD n.val = true then f st else st) } := rfl

theorem onStreams_apply (s : State) (mask : StreamMask) :
    s.onStreams mask Stream.apply =
      { s with
        streams := mapAll s.streams (fun n st =>
          if mask.getLsbD n.val = true ∧ st.pendingValid = true then
            { st with live := st.pend, pendingValid := false } else st) } := by
  unfold State.onStreams State.setStreams
  congr
  funext n st
  unfold Stream.apply
  by_cases hm : mask.getLsbD n.val = true <;> by_cases hp : st.pendingValid = true <;> simp [hm, hp]

/-- DISCARD_PENDING leaves what the judgements read of the streams. -/
theorem discarded_samePlan (s : State) (mask : StreamMask) : SamePlan s (s.onStreams mask Stream.discard) ∧
    ∀ n, ((s.onStreams mask Stream.discard).stream n).noted = (s.stream n).noted := by
  have hcell : ∀ n, (s.onStreams mask Stream.discard).stream n =
      if mask.getLsbD n.val = true then (s.stream n).discard else s.stream n := fun n => cell_mapAll _ _ n
  refine ⟨⟨rfl, fun n => ?_, fun n => ?_, fun n => ?_⟩, fun n => ?_⟩ <;> rw [hcell] <;> split <;> rfl

theorem setMode_named {e : Ev} {code : BitVec 2} (h : e.st.dev.mode ≠ .draining) (hc : code.toNat < 2) :
    e.setMode code =
      (e.map (fun s => s.setDev { s.dev with mode := if code = 0 then .bypass else .regulate })).result .accepted := by
  have hcode : code = 0 ∨ code = 1 := by
    have : code.toNat = 0 ∨ code.toNat = 1 := by omega
    exact this.imp (fun h => BitVec.eq_of_toNat_eq h) fun h => BitVec.eq_of_toNat_eq h
  unfold Ev.setMode
  rw [if_neg h]
  rcases hcode with rfl | rfl <;> rfl

theorem setMode_unnamed {e : Ev} {code : BitVec 2} (h : e.st.dev.mode ≠ .draining) (hc : 2 ≤ code.toNat) :
    e.setMode code = e.result .refusedArg := by
  unfold Ev.setMode
  rw [if_neg h]
  split <;> [omega; omega; rfl]

theorem setMode_draining {e : Ev} {code : BitVec 2} (h : e.st.dev.mode = .draining) :
    e.setMode code = e.result .refusedBusy := if_pos h

theorem snapshot_eq (e : Ev) (n : StreamId) (clear : Bool) :
    e.snapshot n clear =
      e.map (fun s =>
        { s with
          streams := updAt s.streams n (fun st => { st with counters := if clear then Counters.zero else st.counters })
          mgmt := { s.mgmt with snapshot := s.snapshotOf n, cmdResult := .accepted } }) := by
  cases clear with
  | true => rfl
  | false =>
    have hsame : updAt e.st.streams n (fun st => { st with counters := if false = true then Counters.zero else st.counters }) =
        e.st.streams := updAt_id _ _
    unfold Ev.map
    dsimp only
    rw [hsame]
    rfl

theorem timerCmd_unnamed {e : Ev} {mask : TimerMask} {op : BitVec 3} (h : timerOpNamed op = false) :
    e.timerCmd mask op = e.result .refusedArg := by
  have hop : ¬ (1 ≤ op.toNat ∧ op.toNat ≤ 4) := by
    simpa only [timerOpNamed, Bool.and_eq_false_iff, decide_eq_false_iff_not, ← not_and_or] using h
  unfold Ev.timerCmd
  split <;> [omega; omega; omega; omega; rfl]

end Sys2Proof.Machine

namespace Sys2Proof.Proofs

open Sys2Proof Sys2Proof.Machine

/-- Settles O44. -/
theorem installAndRemove : Obligations.InstallAndRemove := by
  refine fun s i hr => ⟨fun hle => ?_, fun hlt => ?_, ?_⟩
  · exact commandRow_accepted (c := .install i)
      (f := fun s => s.setMatchList (updAt s.matchList i (fun _ => { valid := true, rule := s.staging }))) rfl
      Command.noConfusion hr (if_pos hle) rfl rfl
  · obtain ⟨t, ht, hends⟩ := commandRow_ends (c := .install i)
      (u := s.setMgmt { s.mgmt with cmdResult := .refusedArg, lastError := .arg }) rfl Command.noConfusion hr
      (if_neg (Nat.not_le.mpr hlt)) rfl rfl
    have hsettled : State.Settled { s with mgmt := s.mgmt.resulted .refusedArg } :=
      hr.ready.settled.other rfl hr.ready.settled.noted.presented
    exact ⟨t, ht, (ends_iff_judged hsettled.offer hsettled.drain hsettled.answers).mp hends⟩
  · exact commandRow_accepted (c := .remove i)
      (f := fun s => s.setMatchList (updAt s.matchList i (fun m => { m with valid := false }))) rfl
      Command.noConfusion hr (command_remove _ i) rfl rfl

/-- Settles O45. -/
theorem applyAndDiscard : Obligations.ApplyAndDiscard := by
  refine fun s mask hr => ⟨fun hm => ?_, fun hm => ?_, ?_⟩
  · have hends := commandRow_accepted (c := .applyNow mask) (f := fun s => s.onStreams mask Stream.apply) rfl
      Command.noConfusion hr (if_neg hm) rfl rfl
    rw [onStreams_apply] at hends
    exact hends
  · exact commandRow_refused (c := .applyNow mask) rfl Command.noConfusion hr (if_pos hm)
  · obtain ⟨hplan, hnoted⟩ := discarded_samePlan s mask
    exact commandRow_accepted_settled (c := .discardPending mask) (f := fun s => s.onStreams mask Stream.discard) rfl
      Command.noConfusion hr (command_discardPending _ mask) (hr.ready.settled.samePlan hplan hnoted)

/-- STREAM_ON and STREAM_OFF set the mode of every selected stream. -/
theorem streamMode_ends {c : Command} {s : State} {mask : StreamMask} {m : StreamMode} (hw : c.wellFormed = true)
    (hne : c ≠ .warmReset) (hr : s.TakesWord commandAddr)
    (hf : Ev.command ⟨s, []⟩ c = (Ev.map ⟨s, []⟩ fun s => s.onStreams mask fun st => { st with mode := m }).result .accepted) :
    ∃ t, exec c.row s = .next t ∧
      Ends
        { s with
          streams := mapAll s.streams (fun n st => if mask.getLsbD n.val = true then { st with mode := m } else st)
          mgmt := s.mgmt.resulted .accepted } [] t := by
  have hends := commandRow_accepted (f := fun s => s.onStreams mask fun st => { st with mode := m }) hw hne hr hf rfl rfl
  rw [onStreams_eq] at hends
  exact hends

/-- SET_MODE with an operand that names a mode. -/
theorem setMode_ends {s : State} {code : BitVec 2} (hr : s.TakesWord commandAddr) (hm : s.dev.mode ≠ .draining)
    (hc : code.toNat < 2) :
    ∃ t, exec (Command.row (.setMode code)) s = .next t ∧
      Ends
        { s with
          dev := { s.dev with mode := if code = 0 then .bypass else .regulate }
          mgmt := s.mgmt.resulted .accepted } [] t :=
  commandRow_accepted (c := .setMode code)
    (f := fun s => s.setDev { s.dev with mode := if code = 0 then .bypass else .regulate }) rfl
    Command.noConfusion hr (setMode_named hm hc) rfl rfl

/-- Settles O46. -/
theorem modeCommands : Obligations.ModeCommands := by
  refine fun s hr => ⟨fun mask => ?_, fun mask => ?_, fun code hm hc => ?_, fun code hm hc => ?_, fun code hm => ?_⟩
  · exact streamMode_ends (c := .streamOn mask) rfl Command.noConfusion hr (command_streamOn _ mask)
  · exact streamMode_ends (c := .streamOff mask) rfl Command.noConfusion hr (command_streamOff _ mask)
  · exact setMode_ends hr hm hc
  · exact commandRow_refused (c := .setMode code) rfl Command.noConfusion hr (setMode_unnamed hm hc)
  · exact commandRow_refused (c := .setMode code) rfl Command.noConfusion hr (setMode_draining hm)

/-- Settles O48. -/
theorem snapshotAndUnknownCommands : Obligations.SnapshotAndUnknownCommands := by
  refine fun s hr => ⟨fun n clear => ?_, fun w hw => ?_, fun mask op hop => ?_⟩
  · have hsettled : (s.onStream n (fun st => { st with counters := if clear then Counters.zero else st.counters })).Settled :=
      hr.ready.settled.onStream rfl rfl rfl rfl
    exact commandRow_settled (c := .snapshot n clear)
      (u := (s.onStream n (fun st => { st with counters := if clear then Counters.zero else st.counters })).setMgmt
        { s.mgmt with snapshot := s.snapshotOf n, cmdResult := .accepted }) rfl Command.noConfusion hr
      (snapshot_eq ⟨s, []⟩ n clear) (hsettled.other rfl hr.ready.settled.noted.presented)
  · exact commandRow_refused (c := .unknown w) hw Command.noConfusion hr rfl
  · have hnamed : timerOpNamed op = false := by simpa only [Instr.wellFormed, Bool.not_eq_true'] using hop
    have hrefused := timerCmd_unnamed (e := ⟨s, []⟩) (mask := mask) hnamed
    rw [exec_timerCmdUnknownOperation]
    exact happenCommand_refused Command.noConfusion hr hrefused

end Sys2Proof.Proofs
end

section
/-! The event handshake (09): the port's edges, the presentation and the handshake timer. -/

namespace Sys2Proof.Machine

variable {s : State} {nt : Notices}

/-! ### The port (R151 to R153) -/

theorem presented_of_port (h : nt.port ≠ .idle) : nt.Presented := fun hi => absurd hi h

theorem presented_of_hold (h : nt.hold = true) : nt.Presented := fun _ hh => by rw [h] at hh; cases hh

theorem presented_of_empty (h : nt.queue = []) : nt.Presented := fun _ _ => h

/-- The presentation of the head in IDLE with the hold clear (R151). -/
theorem present_shown (hp : nt.port = .idle) (hh : nt.hold = false) (hq : nt.queue ≠ []) :
    nt.present = { nt with port := .presenting, timer := 0 } := if_pos ((presentable_iff nt).mpr ⟨hp, hh, hq⟩)

theorem evackFall_recovering (h : nt.port = .recovering) : nt.evackFall = { nt with port := .idle }.present := by
  unfold Notices.evackFall
  rw [h]

theorem evackFall_elsewhere (h : nt.port ≠ .recovering) : nt.evackFall = nt := by
  unfold Notices.evackFall
  cases hp : nt.port with
  | recovering => exact absurd hp h
  | idle => rfl
  | presenting => rfl

theorem evackRise_presenting {e : Ev} (h : e.st.nt.port = .presenting) :
    e.evackRise = e.map (fun s => s.setNt s.nt.acknowledge) := by
  unfold Ev.evackRise
  rw [h]

theorem evackRise_idle {e : Ev} (h : e.st.nt.port = .idle) : e.evackRise = e.raise 21 .spurious := by
  unfold Ev.evackRise
  rw [h]

theorem evackRise_recovering {e : Ev} (h : e.st.nt.port = .recovering) : e.evackRise = e := by
  unfold Ev.evackRise
  rw [h]

/-- The acknowledge of the head e: its causes join its cause set where its source asks for it, and it leaves (R152). -/
theorem acknowledge_head {e : HsEntry} {rest : List HsEntry} (hq : nt.queue = e :: rest) :
    nt.acknowledge =
      { nt with
        sources :=
          if (cell nt.sources e.source).notifyAfter then
            updAt nt.sources e.source (fun q => { q with causes := q.causes ||| e.causes })
          else nt.sources
        queue := rest, port := .recovering, timer := 0 } := by
  rw [acknowledge_cons hq, hq]
  by_cases hn : (cell nt.sources e.source).notifyAfter = true
  · rw [if_pos hn, if_pos hn]; rfl
  · rw [if_neg hn, if_neg hn]; rfl

/-- A row of the handshake that leaves no presentation due changes the notice unit alone. -/
theorem happen_nt {f : Ev → Ev} (hr : s.Ready) (hf : f ⟨s, []⟩ = ⟨s.setNt nt, []⟩) (hp : nt.Presented) :
    happen s f = .next (s.setNt nt) :=
  event_settled hr.released hr.settled.drain hf (hr.settled.other rfl hp)

/-- An occurrence alone at a settled state changes the notice unit and the count of free choices. -/
theorem happen_occurs {f : Ev → Ev} {jobs : List NoticeJob} (hr : s.Ready) (hf : f ⟨s, []⟩ = ⟨s, jobs⟩) :
    ∃ nt k, s.nt.Takes jobs nt ∧ happen s f = .next { s with nt := nt, freeCount := k } :=
  event_settled_jobs hr.released hr.settled.drain hf hr.settled

/-! ### The handshake timer (R151, R154) -/

theorem ageTick_elsewhere (h : nt.port ≠ .presenting) : nt.ageTick = { nt with hold := false } := by
  unfold Notices.ageTick
  cases hp : nt.port with
  | presenting => exact absurd hp h
  | idle => rfl
  | recovering => rfl

theorem ageTick_counts (h : nt.port = .presenting) (hl : nt.timer + 1 < nt.limit) :
    nt.ageTick = { nt with timer := nt.timer + 1, hold := false } := by
  unfold Notices.ageTick
  rw [h]
  exact if_neg (Nat.not_le.mpr hl)

theorem ageTick_timesOut (h : nt.port = .presenting) (hl : nt.limit ≤ nt.timer + 1) : nt.ageTick = nt.timeOut := by
  unfold Notices.ageTick
  rw [h]
  exact if_pos hl

theorem occur_hold (nt : Notices) (o : Occurrence) : (nt.occur o).hold = nt.hold := by rw [occur_rest]

/-- After a timeout the hold is set, so that nothing is presented (R154). -/
theorem timeOut_hold (nt : Notices) : nt.timeOut.hold = true := by
  cases hq : nt.queue with
  | nil => rw [timeOut_nil hq, occur_hold]
  | cons e q => rw [timeOut_cons hq, occur_hold]

theorem handshakeTimeout_due {e : Ev} (h : e.st.nt.port = .presenting) (hl : e.st.nt.limit ≤ e.st.nt.timer + 1) :
    e.handshakeTimeout = { e with jobs := e.jobs ++ [.ageTick] } := by
  refine if_pos ?_
  simp only [Notices.atTimeout, h, hl, decide_true, Bool.and_true, beq_self_eq_true]

theorem handshakeTimeout_idle {e : Ev} (h : ¬ (e.st.nt.port = .presenting ∧ e.st.nt.limit ≤ e.st.nt.timer + 1)) :
    e.handshakeTimeout = e := by
  refine if_neg ?_
  simpa only [Notices.atTimeout, Bool.and_eq_true, beq_iff_eq, decide_eq_true_eq] using h

/-- A single thing handed to a notice unit with no presentation due is taken at once. -/
theorem takes_singleton {j : NoticeJob} {nt' : Notices} (hp : nt.Presented) (h : nt.Takes [j] nt') : nt' = nt.run j := by
  obtain ⟨l, hl, rfl⟩ := h
  rw [List.perm_singleton.mp hl, runAll_of_presented hp]
  rfl

end Sys2Proof.Machine

namespace Sys2Proof.Proofs

open Sys2Proof Sys2Proof.Machine

/-- Settles O30. -/
theorem handshakePort : Obligations.HandshakePort := by
  intro s hr
  have hpresented := hr.settled.noted.presented
  refine ⟨fun nt e rest hq hp hh => ⟨?_, rfl, ?_⟩, fun _ => ?_, fun e rest hq hp => ?_, fun hp => ?_, fun hp => ?_,
    fun hp hq => ?_, fun hp hq hh => ?_, fun hp => ?_⟩
  · have hshown := present_shown hp hh (by rw [hq]; exact List.cons_ne_nil e rest)
    refine event_settled hr.released hr.settled.drain ?_ (hr.settled.other rfl ?_)
    · unfold Ev.presentation Ev.map
      exact congrArg (fun x => (⟨s.setNt x, []⟩ : Ev)) hshown
    · exact presented_of_port PortState.noConfusion
  · unfold Notices.evcode
    rw [hq]
  · exact happen_idle hr (congrArg (fun x => (⟨s.setNt x, []⟩ : Ev)) (present_of_presented hpresented))
  · have hack := acknowledge_head hq
    refine happen_nt hr ?_ (presented_of_port PortState.noConfusion)
    rw [evackRise_presenting hp]
    exact congrArg (fun x => (⟨s.setNt x, []⟩ : Ev)) hack
  · exact happen_occurs hr (evackRise_idle hp)
  · exact happen_idle hr (evackRise_recovering hp)
  · have hidle : ({ s.nt with port := .idle } : Notices).Presented :=
      hq.elim (fun h => presented_of_empty h) fun h => presented_of_hold h
    have hfall := (evackFall_recovering hp).trans (present_of_presented hidle)
    exact happen_nt hr (congrArg (fun x => (⟨s.setNt x, []⟩ : Ev)) hfall) hidle
  · have hfall := (evackFall_recovering hp).trans (present_shown rfl hh hq)
    exact happen_nt hr (congrArg (fun x => (⟨s.setNt x, []⟩ : Ev)) hfall) (presented_of_port PortState.noConfusion)
  · exact happen_idle hr (congrArg (fun x => (⟨s.setNt x, []⟩ : Ev)) (evackFall_elsewhere hp))

/-- Settles O31. -/
theorem handshakeTimer : Obligations.HandshakeTimer := by
  intro s hr
  have hrun : s.nt.run .ageTick = s.nt.ageTick.present := rfl
  refine ⟨fun hp => ?_, fun hp => ?_, fun hp hq => ?_, fun hp hq => ?_, fun hp hl => ⟨?_, ?_⟩, fun e rest hp hl hq => ?_⟩
  · exact happen_idle hr (handshakeTimeout_idle fun h => hp h.1)
  · rw [hrun, ageTick_elsewhere (by rw [hp]; exact PortState.noConfusion)]
    exact present_of_presented (presented_of_port (by rw [hp]; exact PortState.noConfusion))
  · rw [hrun, ageTick_elsewhere (by rw [hp]; exact PortState.noConfusion)]
    exact present_of_presented (presented_of_empty hq)
  · rw [hrun, ageTick_elsewhere (by rw [hp]; exact PortState.noConfusion)]
    exact present_shown hp rfl hq
  · rw [hrun, ageTick_counts hp hl]
    exact present_of_presented (presented_of_port (by rw [hp]; exact PortState.noConfusion))
  · exact happen_idle hr (handshakeTimeout_idle fun h => Nat.not_le.mpr hl h.2)
  · refine ⟨?_, ?_⟩
    · rw [hrun, ageTick_timesOut hp hl, present_of_presented (presented_of_hold (timeOut_hold s.nt)), timeOut_cons hq, hq]
      rfl
    · obtain ⟨nt, k, ht, hnext⟩ := happen_occurs hr (handshakeTimeout_due (e := ⟨s, []⟩) hp hl)
      rw [takes_singleton hr.settled.noted.presented ht] at hnext
      exact ⟨k, hnext⟩

end Sys2Proof.Proofs
end

section
/-! Offers and responses: an offer that waits or ends (R32 to R36, R172), a response held or discarded at its offer
(R90 to R95), and a frame start taken at a stream (R128). -/

namespace Sys2Proof.Machine

variable {s u : State}

/-! ### Offers on UP (R32, R34, R172) -/

theorem present_fields (s : State) (r : Request) :
    s.present r =
      { s with
        up := { s.up with
          offer := some r, lacking := if s.up.offer = none then Lacking.none else s.up.lacking } } := by
  unfold State.present
  cases h : s.up.offer <;> rfl

/-- What R34 judges of an offer standing on UP. -/
theorem stall_offer {r : Request} (h : s.up.offer = some r) :
    s.stall = if s.dev.mode = .draining then Lacking.none else s.lacks r := by
  unfold State.stall
  rw [h]

/-- With no offer nothing lacks, and the judgements need no more of UP. -/
theorem State.Settled.withdrawn (h : s.Settled) :
    State.Settled { s with up := { s.up with offer := none, lacking := Lacking.none } } :=
  ⟨⟨h.noted.response, h.noted.shortfalls, rfl, h.noted.presented⟩, offerWaits_of_none rfl, h.drain, h.answers⟩

/-- With no response on DOWN no memory answer is ready. -/
theorem answerable_of_none (h : s.downResp = none) : s.answerable = none := by
  unfold State.answerable
  rw [h]

/-- A settled state stays settled where the response on DOWN is gone. -/
theorem State.Settled.unanswered (h : s.Settled) : State.Settled { s with downResp := none } :=
  ⟨⟨fun _ hr => Option.noConfusion rfl (heq_of_eq hr), h.noted.shortfalls, h.noted.stall, h.noted.presented⟩, h.offer, h.drain,
    fun hs => ⟨answerable_of_none rfl, (h.answers hs).2⟩⟩

/-! ### A response on DOWN (R90 to R95) -/

theorem removeEntry_eq (d : Nat) (l : List OrderEntry) : removeEntry d l = l.filter (fun e => e.draw ≠ d) :=
  List.filter_congr fun e _ => by rw [bne, Bool.beq_eq_decide_eq, decide_not]

theorem discardResponse_stray {e : Ev} {r : Response} (hr : e.st.downResp = some r)
    (hm : e.st.oldestDue r.source = none) :
    e.discardResponse = (e.map (fun s => s.setDownResp none)).raise 22 .stray := by
  unfold Ev.discardResponse
  rw [hr]
  dsimp only
  rw [hm]

theorem discardResponse_abandoned {e : Ev} {r : Response} {m : OrderEntry} (hr : e.st.downResp = some r)
    (hm : e.st.oldestDue r.source = some m) (hs : m.state = .abandoned) :
    e.discardResponse = e.map (fun s => (s.setDownResp none).setOrder (removeEntry m.draw s.order)) := by
  unfold Ev.discardResponse
  rw [hr]
  dsimp only
  rw [hm]
  dsimp only
  rw [hs]

theorem discardResponse_made {e : Ev} {r : Response} {m : OrderEntry} {status : LocalStatus} {ghost : Bool}
    (hr : e.st.downResp = some r) (hm : e.st.oldestDue r.source = some m) (hs : m.state = .made status ghost) :
    e.discardResponse =
      e.map (fun s => (s.setDownResp none).setOrder (setEntry m.draw (.made status false) s.order)) := by
  unfold Ev.discardResponse
  rw [hr]
  dsimp only
  rw [hm]
  dsimp only
  rw [hs]

/-- An event at whose end a response on DOWN is discarded. -/
theorem happen_discards {f : Ev → Ev} {e : Ev} {jobs : List NoticeJob} (hr : s.Ready) (hf : f ⟨s, []⟩ = e)
    (hd : e.discardResponse = ⟨u, jobs⟩) : ∃ t, happen s f = .next t ∧ Ends u jobs t := by
  refine ⟨_, happen_open hr.released hr.settled.drain f, ?_⟩
  unfold Ev.close Ends
  rw [hf, hd]
  exact judge_judged _ _

/-- The offer of a response outside cold reset (R90). -/
theorem exec_responseOffer_open (h : s.inReset = false) (r : Response) :
    exec (.responseOffer r) s = happen s (fun e => e.map (fun s => s.setDownResp (some r))) := by
  rw [exec_responseOffer, h]
  rfl

theorem exec_requestOffer_open (h : s.inReset = false) (r : Request) :
    exec (.requestOffer r) s = happen s (fun e => e.map (fun s => s.present r)) := by
  rw [exec_requestOffer, h]
  rfl

theorem exec_offerWithdrawn_open (h : s.inReset = false) (c : Channel) :
    exec (.offerWithdrawn c) s = happen s (fun e => e.map (fun s => s.withdraw c)) := by
  rw [exec_offerWithdrawn, h]
  rfl

/-- A response whose entry is not its source's answer front cannot be answered (R92). -/
theorem answerable_of_behind {r : Response} {m f : OrderEntry} (hr : s.downResp = some r)
    (hm : s.oldestDue r.source = some m) (hf : s.answerFront r.source = some f) (hne : f.draw ≠ m.draw) :
    s.answerable = none := by
  cases ha : s.answerable with
  | none => rfl
  | some p =>
    obtain ⟨hr', hm', -, g, hg, hgm⟩ := answerable_some (r := p.1) (m := p.2) ha
    rw [hr, Option.some.injEq] at hr'
    subst hr'
    rw [hm, Option.some.injEq] at hm'
    rw [hf, Option.some.injEq] at hg
    subst hm' hg
    exact absurd hgm hne

/-- An offer that waits: the judgements alone follow it (R34, R36). -/
theorem happen_present_waits {r : Request} (hr : s.Ready) (hwait : s.dev.mode = .draining ∨ s.lacks r ≠ Lacking.none) :
    ∃ t, happen s (fun e => e.map (fun s => s.present r)) = .next t ∧ Judged (s.present r) [] t ∧
      t.up.offer = some r ∧ t.up.lacking = if s.dev.mode = .draining then Lacking.none else s.lacks r := by
  have hoffer : (s.present r).offerWaits := fun q hq => by
    rw [present_fields] at hq
    cases hq
    exact hwait
  obtain ⟨t, ht, hjudged⟩ := event_judged (u := s.present r) (f := fun e => e.map (fun s => s.present r))
    (jobs := []) hr.released hr.settled.drain rfl
    (responseHeld_congr hr.settled.noted.response rfl rfl) hoffer hr.settled.drain hr.settled.answers
  refine ⟨t, ht, hjudged, ?_, ?_⟩ <;> rw [hjudged.offer]
  · rfl
  · exact stall_offer (s := s.present r) rfl

/-- The fall of a VALID that leaves nothing to judge anew. -/
theorem exec_offerWithdrawn_settled {c : Channel} (hr : s.Ready) (hu : (s.withdraw c).Settled) :
    exec (.offerWithdrawn c) s = .next (s.withdraw c) := by
  rw [exec_offerWithdrawn_open hr.released]
  exact event_settled (u := s.withdraw c) (f := fun e => e.map (fun s => s.withdraw c)) hr.released hr.settled.drain rfl hu

/-- A response that is discarded at its offer. -/
theorem exec_responseOffer_discards {r : Response} {jobs : List NoticeJob} (hr : s.Ready)
    (hd : Ev.discardResponse ⟨s.setDownResp (some r), []⟩ = ⟨u, jobs⟩) :
    ∃ t, exec (.responseOffer r) s = .next t ∧ Ends u jobs t := by
  rw [exec_responseOffer_open hr.released]
  exact happen_discards hr rfl hd

/-! ### Frame starts at a stream (R128) -/

/-- An update is one to a constant. -/
theorem updAt_const {α : Type} {k : Nat} (v : Vector α k) (i : Fin k) (f : α → α) :
    updAt v i f = updAt v i (fun _ => f (cell v i)) := by
  refine table_ext fun j => ?_
  rw [cell_updAt, cell_updAt]
  split
  · next h => rw [h]
  · rfl

theorem deliver_bound {t : TimerId} {n : StreamId} (h : (s.stream n).live.timer = t) :
    s.deliver t n =
      { s with
        deliveries := s.deliveries.erase (t, n)
        streams := updAt s.streams n (fun _ => (s.stream n).frameStart) } := by
  unfold State.deliver
  rw [if_pos h]
  unfold State.onStream State.setStreams
  rw [updAt_const]
  rfl

theorem delivery_made {e : Ev} {t : TimerId} {n : StreamId} (h : (t, n) ∈ e.st.deliveries) :
    e.delivery t n = e.map (fun s => s.deliver t n) := if_pos h

theorem delivery_absent {e : Ev} {t : TimerId} {n : StreamId} (h : (t, n) ∉ e.st.deliveries) : e.delivery t n = e :=
  if_neg h

theorem deliver_unbound {t : TimerId} {n : StreamId} (h : (s.stream n).live.timer ≠ t) :
    s.deliver t n = { s with deliveries := s.deliveries.erase (t, n) } := if_neg h

end Sys2Proof.Machine

namespace Sys2Proof.Proofs

open Sys2Proof Sys2Proof.Machine

/-- Settles O17. -/
theorem offersThatWaitOrEnd : Obligations.OffersThatWaitOrEnd := by
  refine fun s hr => ⟨fun r hwait => ?_, ?_, ?_, ?_⟩
  · obtain ⟨t, ht, hjudged, hoffer, hlacking⟩ := happen_present_waits hr hwait
    rw [present_fields] at hjudged
    rw [exec_requestOffer_open hr.released]
    exact ⟨t, ht, hjudged, hoffer, hlacking⟩
  · exact happen_idle hr (takeIfAble_of_waits hr.settled.offer)
  · exact exec_offerWithdrawn_settled hr hr.settled.withdrawn
  · exact exec_offerWithdrawn_settled hr hr.settled.unanswered

/-- Settles O20. -/
theorem responseDiscarded : Obligations.ResponseDiscarded := by
  refine fun s r hr => ⟨fun hm => ?_, fun m hm hs => ?_, fun m status hm hs => ?_⟩
  · obtain ⟨t, ht, hends⟩ := exec_responseOffer_discards hr
      (discardResponse_stray (e := ⟨s.setDownResp (some r), []⟩) rfl hm)
    have hsettled := hr.settled.unanswered
    exact ⟨t, ht, (ends_iff_judged hsettled.offer hsettled.drain hsettled.answers).mp hends⟩
  · have hd := discardResponse_abandoned (e := ⟨s.setDownResp (some r), []⟩) rfl hm hs
    rw [← removeEntry_eq]
    exact exec_responseOffer_discards hr hd
  · exact exec_responseOffer_discards hr (discardResponse_made (e := ⟨s.setDownResp (some r), []⟩) rfl hm hs)

/-- Settles O22. -/
theorem responseHeldOnDown : Obligations.ResponseHeldOnDown := by
  intro s r m hr hm hi hwait
  have hs := hr.settled
  rw [exec_responseOffer_open hr.released]
  refine event_settled hr.released hs.drain rfl ⟨⟨?_, hs.noted.shortfalls, hs.noted.stall, hs.noted.presented⟩, hs.offer,
    hs.drain, fun hempty => ⟨?_, (hs.answers hempty).2⟩⟩
  · exact fun q hq => by cases hq; exact ⟨m, hm, hi⟩
  · obtain hstage | ⟨f, hf, hne⟩ := hwait
    · exact absurd hempty hstage
    · exact answerable_of_behind (s := s.setDownResp (some r)) rfl hm hf hne

/-- Settles O26. -/
theorem frameStartReachesABoundStream : Obligations.FrameStartReachesABoundStream := by
  intro s t n hr st live credit
  have hframe : st.frameStart = { st with live := live, pendingValid := false, credit := credit, noted := false } := by
    clear_value st
    rcases st with ⟨l, p, v, md, cr, ic, nt, ct⟩
    cases v <;> rfl
  have hr' := hr.settled.noted.response
  refine ⟨fun hmem hb => ?_, fun hmem hb => ?_, fun hmem => ?_⟩
  · have hdelivered := (delivery_made (e := ⟨s, []⟩) hmem).trans (congrArg (fun u => (⟨u, []⟩ : Ev)) (deliver_bound hb))
    rw [← hframe]
    exact event_ends hr.released hr.settled.drain (f := fun e => e.delivery t n) hdelivered hr'
  · have hdelivered := (delivery_made (e := ⟨s, []⟩) hmem).trans (congrArg (fun u => (⟨u, []⟩ : Ev)) (deliver_unbound hb))
    exact event_settled hr.released hr.settled.drain (f := fun e => e.delivery t n) hdelivered
      (hr.settled.other rfl hr.settled.noted.presented)
  · exact happen_idle (f := fun e => e.delivery t n) hr (delivery_absent (e := ⟨s, []⟩) hmem)

end Sys2Proof.Proofs
end

section
/-! The two stages (05, 06): the grant, the partners' takes, and what fills the answer stage. -/

namespace Sys2Proof.Machine

variable {s u : State}

/-! ### The grant (R78 to R80) -/

theorem grant_made {e : Ev} {r : StoreRec} (hs : e.st.issue.stage = none) (hg : e.st.grantChoice = some r) :
    e.grant = e.map (fun s => s.grantTo r) := by
  rcases grant_cases e with ⟨-, h⟩ | ⟨r', -, h', hgrant⟩
  · rcases h with h | h
    · exact absurd hs h
    · rw [hg] at h; cases h
  · rw [hg, Option.some.injEq] at h'
    rw [h']
    exact hgrant

theorem grant_idle {e : Ev} (h : e.st.issue.stage ≠ none ∨ e.st.grantChoice = none) : e.grant = e := by
  rcases grant_cases e with ⟨hgrant, -⟩ | ⟨r, hs, hg, -⟩
  · exact hgrant
  · rcases h with h | h
    · exact absurd hs h
    · rw [hg] at h; cases h

/-- The charge of a stream that is not regulated: its counts alone (R79). -/
theorem charge_free (st : Stream) (b : Nat) :
    st.charge false b =
      { st with
        issueCount := st.issueCount + 1
        counters :=
          { st.counters with
            issuedRequests := st.counters.issuedRequests + 1
            issuedBeats := st.counters.issuedBeats + BitVec.ofNat 32 b } } := rfl

/-- Within its credit a regulated stream has no excess beats (R80). -/
theorem charge_within {st : Stream} {b : Nat} (h : b ≤ st.credit) :
    st.charge true b = { st.charge false b with credit := st.credit - b } := by
  unfold Stream.charge
  rw [Nat.sub_eq_zero_of_le h, if_pos rfl, if_neg Bool.false_ne_true]
  simp only [BitVec.ofNat_eq_ofNat, BitVec.add_zero]

/-- Above its credit the shortfall counts as excess beats (R80). -/
theorem charge_excess {st : Stream} {b : Nat} (h : ¬ b ≤ st.credit) :
    st.charge true b =
      { st.charge false b with
        credit := 0
        counters :=
          { (st.charge false b).counters with
            excessBeats := st.counters.excessBeats + BitVec.ofNat 32 (b - st.credit) } } := by
  unfold Stream.charge
  rw [Nat.sub_eq_zero_of_le (Nat.le_of_not_le h)]
  rfl

/-- An entry that becomes ISSUED leaves the oldest response-due entry ISSUED where it was. -/
theorem find_setEntry_issued {S : Source} {d : Nat} {m : OrderEntry} (hi : m.state = .issued) (l : List OrderEntry)
    (h : l.find? (fun e => e.source == S && e.state.responseDue) = some m) :
    ∃ m', (setEntry d .issued l).find? (fun e => e.source == S && e.state.responseDue) = some m' ∧ m'.state = .issued := by
  induction l with
  | nil => cases h
  | cons e l ih =>
    unfold setEntry at ih ⊢
    rw [List.map_cons, List.find?_cons]
    by_cases hd : e.draw = d
    · rw [if_pos hd]
      by_cases hS : e.source == S
      · refine ⟨{ e with state := .issued }, ?_, rfl⟩
        simp only [hS, EntryState.responseDue, Bool.and_self]
      · rw [List.find?_cons] at h
        simp only [hS, Bool.false_and] at h ⊢
        exact ih h
    · rw [if_neg hd]
      rw [List.find?_cons] at h
      by_cases hp : (e.source == S && e.state.responseDue) = true
      · rw [hp] at h ⊢
        cases h
        exact ⟨m, rfl, hi⟩
      · rw [Bool.not_eq_true] at hp
        rw [hp] at h ⊢
        exact ih h

theorem State.responseHeld.granted (h : s.responseHeld) (r : StoreRec) : (s.grantTo r).responseHeld := by
  rw [grantTo_fields]
  intro q hq
  obtain ⟨m, hm, hi⟩ := h q hq
  exact find_setEntry_issued hi s.order hm

/-! ### DOWN's take (R81) -/

theorem issueTake_occupied {q : Issued} (h : s.issue.stage = some q) :
    s.issueTake =
      { s with
        issue := { s.issue with stage := none }
        wdb := s.wdb.filter (fun a => q.writeRef ≠ some a.key) } := by
  have hfilter : s.wdb.filter (fun a => !s.stageHolds a) = s.wdb.filter (fun a => q.writeRef ≠ some a.key) :=
    List.filter_congr fun a _ => by
      unfold State.stageHolds
      rw [h]
      dsimp only
      rw [Bool.beq_eq_decide_eq, ← decide_not]
  unfold State.issueTake
  rw [h, hfilter]
  rfl

theorem issueTake_empty (h : s.issue.stage = none) : s.issueTake = s := by
  unfold State.issueTake
  rw [h]

/-- Where the buffer matches, the beats of a WRITE in the issue stage are one allocation, of its own beats (R50, R73). -/
theorem State.BufferMatches.stage_alloc (h : s.BufferMatches) {q : Issued} {k : Nat} (hs : s.issue.stage = some q)
    (hk : q.writeRef = some k) : ∃ a, s.wdb.filter (fun a => a.key == k) = [a] ∧ a.data.length = q.beats := by
  have hstage : s.stageShare = [(k, q.beats)] := by
    unfold State.stageShare
    rw [hs]
    dsimp only
    rw [hk]
    rfl
  have hrest : (s.store.filterMap StoreRec.share).filter (fun p => p.1 == k) = [] := by
    rw [List.filter_eq_nil_iff]
    intro p hp hpk
    obtain ⟨r, hr, hdraw, -⟩ := h.mem_shares hp
    have hfresh := (h.fresh (k, q.beats) (by rw [hstage]; exact List.mem_singleton_self _)).2 r hr
    exact hfresh (hdraw.trans (beq_iff_eq.mp hpk))
  have hperm := h.perm.filter (fun p => p.1 == k)
  have hheld : s.heldShares.filter (fun p => p.1 == k) = [(k, q.beats)] := by
    unfold State.heldShares
    rw [hstage, List.filter_append, hrest, List.filter_cons_of_pos (p := fun p : Nat × Nat => p.1 == k) (beq_self_eq_true k)]
    rfl
  rw [hheld] at hperm
  have hshares : (s.wdb.filter (fun a => a.key == k)).map (fun a => (a.key, a.data.length)) = [(k, q.beats)] := by
    have hmap := List.perm_singleton.mp hperm
    rwa [State.wdbShares, List.filter_map] at hmap
  obtain ⟨a, ha, hval⟩ := List.map_eq_singleton_iff.mp hshares
  exact ⟨a, ha, (Prod.mk.inj hval).2⟩

theorem downRequest_empty (h : s.issue.stage = none) : s.downRequest = none := by
  unfold State.downRequest
  rw [h]
  split <;> rfl

/-- The request on DOWN carries the data that its reference names (R175). -/
theorem downRequest_occupied {q : Issued} (hr : s.inReset = false) (hs : s.issue.stage = some q) :
    s.downRequest = some
      { source := q.source, kind := q.kind, address := q.address, beats := BitVec.ofNat 8 q.beats
        data := (q.writeRef.map s.bufferData).getD [] } := by
  unfold State.downRequest
  rw [hr, hs, if_neg Bool.false_ne_true]
  dsimp only
  cases q.writeRef <;> rfl

theorem bufferData_of_filter {k : Nat} {a : Alloc} (h : s.wdb.filter (fun a => a.key == k) = [a]) : s.bufferData k = a.data := by
  have hfind : s.wdb.find? (fun a => a.key == k) = some a := by rw [← List.head?_filter, h]; rfl
  unfold State.bufferData
  rw [hfind]

/-! ### Fills (R91, R97, R98) -/

theorem fill_memory {e : Ev} {r : Response} {m : OrderEntry} (hs : e.st.answer.stage = none)
    (hr : e.st.downResp = some r) (hm : e.st.oldestDue r.source = some m) (hi : m.state = .issued)
    (hf : e.st.answerFront r.source = some m) : e.fill = e.memoryAnswer r m := by
  have ha : e.st.answerable = some (r, m) := by
    unfold State.answerable
    rw [hr]
    dsimp only
    rw [hm, hf]
    exact if_pos ⟨hi, rfl⟩
  unfold Ev.fill
  rw [hs]
  dsimp only
  rw [ha]

theorem fill_local {e : Ev} {f : OrderEntry} (hs : e.st.answer.stage = none) (ha : e.st.answerable = none)
    (hf : e.st.localChoice = some f) : e.fill = e.map (fun s => s.localAnswer f) := by
  unfold Ev.fill
  rw [hs]
  dsimp only
  rw [ha]
  dsimp only
  rw [hf]

theorem brings_of_fill {e e' : Ev} (h : e.fill = e') : e.brings = e'.brings := by
  unfold Ev.brings
  rw [← h, fill_fill]

/-- An event whose end begins with a fill. -/
theorem close_fills {e : Ev} {jobs : List NoticeJob} (hd : e.st.responseHeld) (hf : e.fill = ⟨u, jobs⟩) :
    Ends u jobs e.close := by
  unfold Ev.close Ends
  rw [discardResponse_held (u := e.st) hd, brings_of_fill hf]
  exact judge_judged _ _

/-- No judgement reads the answer stage. -/
theorem State.Noted.answer (h : s.Noted) (a : AnswerBlock) : State.Noted { s with answer := a } :=
  ⟨h.response, h.shortfalls, h.stall, h.presented⟩

/-- The answer that a response makes for entry m (R91). -/
def answerTo (r : Response) (m : OrderEntry) : Answer :=
  { source := r.source, status := if r.isOk then .ok else .memerr, data := r.answerData m.kind m.beats }

/-- A memory answer for an entry that names a stream (R91). -/
theorem memoryAnswer_of {e : Ev} {r : Response} {m : OrderEntry} {n : StreamId} (hn : m.stream = some n) :
    e.memoryAnswer r m =
      ⟨(e.st.memoryAnswered (answerTo r m) m).onStream n (fun st => st.answered r.isOk),
        e.jobs ++ if r.isOk then [] else [.occur { source := streamSource n, cause := .memerr }]⟩ := by
  unfold Ev.memoryAnswer
  rw [hn]
  cases hk : r.isOk with
  | true =>
    unfold answerTo
    rw [hk]
    exact congrArg (Ev.mk _) (List.append_nil e.jobs).symm
  | false =>
    unfold answerTo
    rw [hk]
    rfl

theorem isOk_eq (r : Response) : r.isOk = decide (r.status = 0#3) := Bool.beq_eq_decide_eq _ _

/-- The carried beats in their order, the missing ones zero (R176). -/
theorem fitBeats_eq_map (k : Nat) (l : List Beat) : fitBeats k l = (List.range k).map (fun i => l.getD i 0) := by
  induction k generalizing l with
  | zero => rfl
  | succ k ih =>
    rw [List.range_succ_eq_map, List.map_cons, List.map_map]
    cases l with
    | nil => exact congrArg _ ((ih []).trans rfl)
    | cons b l => exact congrArg _ ((ih l).trans rfl)

theorem answerData_eq (r : Response) (kind : Kind) (beats : Nat) :
    r.answerData kind beats =
      if r.isOk = true ∧ kind = .read then (List.range beats).map (fun i => r.carried.getD i 0) else [] := by
  unfold Response.answerData
  rw [fitBeats_eq_map]
  cases kind <;> cases r.isOk <;> rfl

end Sys2Proof.Machine

namespace Sys2Proof.Proofs

open Sys2Proof Sys2Proof.Machine

/-- Settles O18. -/
theorem grantMovesTheChoice : Obligations.GrantMovesTheChoice := by
  refine ⟨fun s hr h => happen_idle hr (grant_idle h), fun s r hr hs hg => ?_⟩
  intro n st c counted st'
  have hcharge : st.charge (s.regulated n) r.beats = st' := by
    by_cases hreg : st.mode = .on ∧ s.dev.mode = .regulate
    · rw [(s.regulated_iff n).mpr hreg]
      by_cases hc : r.beats ≤ st.credit
      · exact (charge_within hc).trans ((if_pos hreg).trans (if_pos hc)).symm
      · exact (charge_excess hc).trans ((if_pos hreg).trans (if_neg hc)).symm
    · rw [Bool.eq_false_iff.mpr fun h => hreg ((s.regulated_iff n).mp h)]
      exact (if_neg hreg).symm
  have hfilter : s.store.filter (fun x => x.draw != r.draw) = s.store.filter (fun x => x.draw ≠ r.draw) :=
    List.filter_congr fun x _ => by rw [bne, Bool.beq_eq_decide_eq, decide_not]
  obtain ⟨t, ht, hends⟩ := event_ends (u := s.grantTo r) hr.released hr.settled.drain (grant_made (e := ⟨s, []⟩) hs hg)
    (hr.settled.noted.response.granted r)
  rw [grantTo_fields, updAt_const, hfilter] at hends
  refine ⟨t, ht, ?_⟩
  rw [← hcharge]
  exact hends

/-- Settles O19. -/
theorem partnersTakeTheStages : Obligations.PartnersTakeTheStages := by
  intro s hr
  have hheld := hr.settled.noted.response
  refine ⟨?_, downRequest_empty, fun q hb hs => ?_, fun q hs => ?_, fun hs => ?_, ?_, fun ha hl hd => ?_, fun hs => ?_⟩
  · unfold State.upResponse
    rw [hr.released]
    rfl
  · refine ⟨_, downRequest_occupied hr.released hs, fun hk => ?_, fun hk => ?_⟩
    · rw [(hb.staged q hs).mpr hk]
      rfl
    · obtain ⟨k, href⟩ : ∃ k, q.writeRef = some k := Option.ne_none_iff_exists'.mp fun h => by
        rw [(hb.staged q hs).mp h] at hk
        cases hk
      obtain ⟨a, ha, hlen⟩ := hb.stage_alloc hs href
      have hdata : (q.writeRef.map s.bufferData).getD [] = a.data := by rw [href]; exact bufferData_of_filter ha
      have hmem : ∀ x, x ∈ s.wdb ∧ x.key = k ↔ x = a := fun x => by
        rw [← List.mem_singleton (b := a), ← ha, List.mem_filter, beq_iff_eq]
      obtain ⟨hin, hkey⟩ := (hmem a).mpr rfl
      rw [hdata, href]
      refine ⟨hlen, ⟨a, hin, by rw [hkey]⟩, fun x hx hxk => ?_⟩
      rw [(hmem x).mp ⟨hx, (Option.some.inj hxk).symm⟩]
  · have htaken := congrArg (fun u => (⟨u, []⟩ : Ev)) (issueTake_occupied hs)
    exact event_ends hr.released hr.settled.drain (f := fun e => e.map State.issueTake) htaken hheld
  · exact happen_idle hr (f := fun e => e.map State.issueTake) (congrArg (fun u => (⟨u, []⟩ : Ev)) (issueTake_empty hs))
  · exact event_ends hr.released hr.settled.drain
      (f := fun e => e.map (fun s => s.setAnswer { s.answer with stage := none })) rfl hheld
  · refine event_settled hr.released hr.settled.drain
      (f := fun e => e.map (fun s => s.setAnswer { s.answer with stage := none })) rfl
      ⟨hr.settled.noted.answer _, hr.settled.offer, fun hm ho => hd ⟨hm, ho.1, ho.2.1⟩, fun _ => ⟨ha, hl⟩⟩
  · refine happen_idle hr (f := fun e => e.map (fun s => s.setAnswer { s.answer with stage := none })) ?_
    have hsame : s.setAnswer { s.answer with stage := none } = s := by rw [← hs]; rfl
    exact congrArg (fun u => (⟨u, []⟩ : Ev)) hsame

end Sys2Proof.Proofs
end

section
/-! The answers that fill the stage (06): a memory answer (R91) and the round robin's local one (R98). -/

namespace Sys2Proof.Machine

variable {s u : State}

/-! ### The order table without an entry that is not the oldest response-due one -/

/-- With one entry gone, the first that a selection finds stays the same if it is another. -/
theorem find_removeEntry {p : OrderEntry → Bool} {l : List OrderEntry} {m : OrderEntry} {d : Nat}
    (h : l.find? p = some m) (hd : m.draw ≠ d) : (removeEntry d l).find? p = some m := by
  obtain ⟨hp, as, bs, rfl, has⟩ := List.find?_eq_some_iff_append.mp h
  refine List.find?_eq_some_iff_append.mpr ⟨hp, removeEntry d as, removeEntry d bs, ?_, fun a ha => has a ?_⟩
  · unfold removeEntry
    rw [List.filter_append, List.filter_cons_of_pos (by simpa using hd)]
  · exact (mem_removeEntry.mp ha).1

/-- With one response-due entry in another state in which it is so, the oldest stays the same if it is another. -/
theorem find_setEntry_due {S : Source} {l : List OrderEntry} {m : OrderEntry} {d : Nat} {es : EntryState}
    (h : l.find? (fun e => e.source == S && e.state.responseDue) = some m) (hd : m.draw ≠ d)
    (hes : ∀ e ∈ l, e.draw = d → e.state.responseDue = es.responseDue) :
    (setEntry d es l).find? (fun e => e.source == S && e.state.responseDue) = some m := by
  have hsame : ∀ e ∈ l, (fun e : OrderEntry => e.source == S && e.state.responseDue)
      (if e.draw = d then { e with state := es } else e) = (e.source == S && e.state.responseDue) := fun e he => by
    split
    · next hed => rw [hes e he hed]
    · rfl
  obtain ⟨hp, as, bs, rfl, has⟩ := List.find?_eq_some_iff_append.mp h
  refine List.find?_eq_some_iff_append.mpr ⟨hp, setEntry d es as, setEntry d es bs, ?_, fun a ha => ?_⟩
  · unfold setEntry
    rw [List.map_append, List.map_cons, if_neg hd]
  · obtain ⟨e, he, rfl⟩ := List.mem_map.mp ha
    have := hsame e (List.mem_append_left _ he)
    dsimp only at this
    rw [this]
    exact has e he

/-- A held response stays held where a LOCAL entry is answered. -/
theorem State.responseHeld.localAnswered (h : s.responseHeld) (hm : s.StoreMatches) {f : OrderEntry} {status : LocalStatus}
    {ghost : Bool} (hf : f ∈ s.order) (hs : f.state = .made status ghost) : (s.localAnswer f).responseHeld := by
  rw [localAnswer_fields hs]
  intro q hq
  obtain ⟨m, hdue, hi⟩ := h q hq
  have hne : m.draw ≠ f.draw := fun hd => by
    rw [hm.entry_eq (oldestDue_mem hdue) hf hd, hs] at hi
    cases hi
  refine ⟨m, ?_, hi⟩
  cases ghost with
  | false => exact find_removeEntry hdue hne
  | true =>
    refine find_setEntry_due hdue hne fun e he hed => ?_
    rw [hm.entry_eq he hf hed, hs]
    rfl

/-! ### Events that fill the stage -/

/-- An ISSUED entry means a drain that is not over. -/
theorem drainWaits_of_issued {m : OrderEntry} (hm : m ∈ s.order) (hi : m.state = .issued) : s.drainWaits := fun _ ho => by
  rw [ho.1 m hm] at hi
  cases hi

theorem drainWaits_of_local {f : OrderEntry} {status : LocalStatus} {ghost : Bool} (hf : f ∈ s.order)
    (hs : f.state = .made status ghost) : s.drainWaits := fun _ ho => by
  rw [ho.1 f hf] at hs
  cases hs

/-- A row of the answer side at whose end, or by whose effect, the stage is filled. -/
theorem happen_fills {f : Ev → Ev} {e : Ev} {jobs : List NoticeJob} (hr : s.inReset = false) (hw : s.drainWaits)
    (hf : f ⟨s, []⟩ = e) (hd : e.st.responseHeld) (hfill : e.fill = ⟨u, jobs⟩) :
    ∃ t, happen s f = .next t ∧ Ends u jobs t :=
  ⟨_, happen_open hr hw f, by rw [hf]; exact close_fills hd hfill⟩

/-- The state after a memory answer (R91). -/
def State.memoryFilled (s : State) (r : Response) (m : OrderEntry) (n : StreamId) : State :=
  (s.memoryAnswered (answerTo r m) m).onStream n (fun st => st.answered r.isOk)

/-- The occurrence of a memory answer that is not OK (R91). -/
def memoryNotices (r : Response) (n : StreamId) : List NoticeJob :=
  if r.isOk then [] else [.occur { source := streamSource n, cause := .memerr }]

/-- A memory answer by each of the rows at which one comes about (R91). -/
theorem exec_memoryAnswer {c : Instr} {r : Response} {m : OrderEntry} {n : StreamId}
    (hc : (c = .responseOffer r ∧ s.Ready ∧ s.answer.stage = none) ∨ (c = .answerTake ∧ s.Ready ∧ s.downResp = some r) ∨
      (c = .answerFill ∧ s.inReset = false ∧ s.Noted ∧ s.downResp = some r ∧ s.answer.stage = none))
    (hm : s.oldestDue r.source = some m) (hi : m.state = .issued) (hf : s.answerFront r.source = some m)
    (hn : m.stream = some n) :
    ∃ t, exec c s = .next t ∧ Ends (s.memoryFilled r m n) (memoryNotices r n) t := by
  rcases hc with ⟨rfl, hr, hs⟩ | ⟨rfl, hr, hd⟩ | ⟨rfl, hr, hnoted, hd, hs⟩
  · rw [exec_responseOffer_open hr.released]
    refine happen_fills (e := ⟨s.setDownResp (some r), []⟩) hr.released hr.settled.drain rfl ?_ ?_
    · exact fun q hq => by cases hq; exact ⟨m, hm, hi⟩
    · exact (fill_memory (e := ⟨s.setDownResp (some r), []⟩) hs rfl hm hi hf).trans (memoryAnswer_of hn)
  · refine happen_fills (f := fun e => e.map (fun s => s.setAnswer { s.answer with stage := none }))
      (e := ⟨s.setAnswer { s.answer with stage := none }, []⟩) hr.released hr.settled.drain rfl ?_ ?_
    · exact responseHeld_congr hr.settled.noted.response rfl rfl
    · exact (fill_memory (e := ⟨s.setAnswer { s.answer with stage := none }, []⟩) rfl hd hm hi hf).trans
        (memoryAnswer_of hn)
  · refine event_ends hr (drainWaits_of_issued (oldestDue_mem hm) hi) (f := Ev.fill) ?_ ?_
    · exact (fill_memory (e := ⟨s, []⟩) hs hd hm hi hf).trans (memoryAnswer_of hn)
    · exact fun q hq => Option.noConfusion rfl (heq_of_eq hq)

/-- A local answer by each of the rows at which one comes about (R97, R98). -/
theorem exec_localAnswer {c : Instr} {f : OrderEntry} {status : LocalStatus} {ghost : Bool} (hmatch : s.StoreMatches)
    (hc : (c = .answerTake ∧ s.Ready) ∨ (c = .answerFill ∧ s.inReset = false ∧ s.Noted ∧ s.answer.stage = none))
    (ha : s.answerable = none) (hl : s.localChoice = some f) (hs : f.state = .made status ghost) :
    ∃ t, exec c s = .next t ∧ Ends (s.localAnswer f) [] t := by
  have hf : f ∈ s.order := answerFront_mem (localChoice_first hl).1
  rcases hc with ⟨rfl, hr⟩ | ⟨rfl, hr, hnoted, hstage⟩
  · have hsame : (s.setAnswer { s.answer with stage := none }).localAnswer f = s.localAnswer f := by
      rw [localAnswer_fields hs, localAnswer_fields hs]
      rfl
    rw [← hsame]
    refine happen_fills (f := fun e => e.map (fun s => s.setAnswer { s.answer with stage := none }))
      (e := ⟨s.setAnswer { s.answer with stage := none }, []⟩) hr.released hr.settled.drain rfl ?_ ?_
    · exact responseHeld_congr hr.settled.noted.response rfl rfl
    · exact fill_local (e := ⟨s.setAnswer { s.answer with stage := none }, []⟩) rfl ha hl
  · exact event_ends (u := s.localAnswer f) hr (drainWaits_of_local hf hs) (f := Ev.fill)
      (fill_local (e := ⟨s, []⟩) hstage ha hl) (hnoted.response.localAnswered hmatch hf hs)

end Sys2Proof.Machine

namespace Sys2Proof.Proofs

open Sys2Proof Sys2Proof.Machine

/-- Settles O21. -/
theorem memoryAnswerFillsTheStage : Obligations.MemoryAnswerFillsTheStage := by
  intro s c r m n hc hm hi hf hn ok got st
  obtain ⟨t, ht, hends⟩ := exec_memoryAnswer hc hm hi hf hn
  refine ⟨t, ht, ?_⟩
  unfold State.memoryFilled memoryNotices answerTo State.onStream State.setStreams at hends
  rw [updAt_const, memoryAnswered_fields, removeEntry_eq, answerData_eq, isOk_eq] at hends
  exact hends

/-- Settles O23. -/
theorem localAnswerFillsTheStage : Obligations.LocalAnswerFillsTheStage := by
  refine ⟨fun s c f status ghost hmatch hc ha hl hs => ?_, fun s hr => ?_⟩
  · intro named
    have hnamed : status.answer = named := by cases status <;> rfl
    obtain ⟨t, ht, hends⟩ := exec_localAnswer hmatch hc ha hl hs
    rw [localAnswer_fields hs, removeEntry_eq, hnamed] at hends
    exact ⟨t, ht, hends⟩
  · exact happen_idle hr (fill_of_waits hr.settled.answers)

end Sys2Proof.Proofs
end

section
/-! The take of a request (R37 to R44): by its offer or where it waits. -/

namespace Sys2Proof.Machine

variable {s t u : State} {r : Request} {x : OrderEntry}

/-! ### The order table with one entry more -/

/-- An entry at the tail becomes its source's answer front where there was none (R89). -/
theorem answerFront_append (h : t.order = s.order ++ [x]) (hx : x.state ≠ .abandoned) (S : Source) :
    t.answerFront S = (s.answerFront S).or (if x.source = S then some x else none) := by
  unfold State.answerFront
  rw [h, List.find?_append, List.find?_singleton]
  by_cases hS : x.source = S <;> simp [hS, hx]

theorem oldestDue_append {S : Source} {m : OrderEntry} (h : t.order = s.order ++ [x]) (hm : s.oldestDue S = some m) :
    t.oldestDue S = some m := by
  unfold State.oldestDue at hm ⊢
  rw [h, List.find?_append, hm]
  rfl

theorem State.responseHeld.appended (hs : s.responseHeld) (h : t.order = s.order ++ [x]) (hd : t.downResp = s.downResp) :
    t.responseHeld := fun q hq =>
  let ⟨m, hm, hi⟩ := hs q (hd ▸ hq)
  ⟨m, oldestDue_append h hm, hi⟩

/-- A memory answer is ready after the entry where it was before. -/
theorem answerable_append (hs : s.responseHeld) (h : t.order = s.order ++ [x]) (hx : x.state ≠ .abandoned)
    (hd : t.downResp = s.downResp) : t.answerable = s.answerable := by
  cases hq : s.downResp with
  | none => rw [answerable_of_none hq, answerable_of_none (hd.trans hq)]
  | some q =>
    obtain ⟨m, hm, hi⟩ := hs q hq
    obtain ⟨f, hf⟩ : ∃ f, s.answerFront q.source = some f := by
      refine Option.ne_none_iff_exists'.mp fun hnone => ?_
      have hno := List.find?_eq_none.mp hnone m (oldestDue_mem hm)
      have hsource := List.find?_some hm
      simp only [Bool.and_eq_true, beq_iff_eq] at hsource
      simp [hsource.1, hi] at hno
    have hf' : t.answerFront q.source = some f := by rw [answerFront_append h hx, hf]; rfl
    unfold State.answerable
    rw [hd, hq]
    dsimp only
    rw [hm, hf, hf', oldestDue_append h hm]

/-- The entry makes no local answer ready where it is not LOCAL or not the answer front. -/
theorem localChoice_append_none (hl : s.localChoice = none) (h : t.order = s.order ++ [x]) (hx : x.state ≠ .abandoned)
    (hbehind : x.state.isLocal = false ∨ s.answerFront x.source ≠ none) : t.localChoice = none := by
  refine localChoice_none.mpr fun S g hg => ?_
  rw [answerFront_append h hx] at hg
  cases hf : s.answerFront S with
  | some f =>
    rw [hf] at hg
    cases hg
    exact localChoice_none.mp hl S _ hf
  | none =>
    rw [hf, Option.none_or] at hg
    split at hg
    · next hS =>
      cases hg
      exact hbehind.resolve_right fun hne => hne (hS ▸ hf)
    · cases hg

/-- A LOCAL entry that is its source's answer front is the local choice where there was none (R99). -/
theorem localChoice_append_some (hl : s.localChoice = none) (h : t.order = s.order ++ [x]) (hx : x.state.isLocal = true)
    (hfront : s.answerFront x.source = none) : t.localChoice = some x := by
  have hne : x.state ≠ .abandoned := fun ha => by rw [ha] at hx; cases hx
  have hx' : t.answerFront x.source = some x := by rw [answerFront_append h hne, hfront, if_pos rfl]; rfl
  cases hc : t.localChoice with
  | none =>
    rw [localChoice_none.mp hc x.source x hx'] at hx
    cases hx
  | some f =>
    obtain ⟨hf, hlocal, -⟩ := localChoice_first hc
    rw [answerFront_append h hne] at hf
    cases hold : s.answerFront f.source with
    | some g =>
      rw [hold] at hf
      cases hf
      rw [localChoice_none.mp hl _ _ hold] at hlocal
      cases hlocal
    | none =>
      rw [hold, Option.none_or] at hf
      split at hf
      · exact hf.symm
      · cases hf

/-! ### The take -/

theorem take_malformed {e : Ev} (h : e.st.admission r = .malformed) :
    e.take r =
      ⟨(e.st.takeOffer r none (.made .refused false)).setStreams e.st.streams,
        e.jobs ++ [.occur { source := 22, cause := .malformed }]⟩ := by
  unfold Ev.take
  dsimp only
  rw [h]
  rfl

theorem take_overflow {e : Ev} {n : StreamId} (h : e.st.admission r = .overflow n) :
    e.take r =
      (e.map (fun s => (s.takeOffer r (some n) (.made .refused false)).onStream n Stream.refused)).raise
        (streamSource n) .overflow := by
  unfold Ev.take
  dsimp only
  rw [h]

/-- A stream after a refusal by the REFUSE policy: short credit sets the marker (R42, R71). -/
def Stream.refusedShort (st : Stream) (b : Nat) : Stream :=
  { st.refused with noted := st.noted || decide (st.credit < b) }

/-- The occurrences of a refusal by the REFUSE policy (R42, R71). -/
def Stream.refusedNotices (st : Stream) (n : StreamId) (b : Nat) : List NoticeJob :=
  .occur { source := streamSource n, cause := .refused } ::
    (if st.credit < b ∧ st.noted = false then [.occur { source := streamSource n, cause := .credit }] else [])

theorem take_refused {e : Ev} {n : StreamId} (h : e.st.admission r = .refused n) :
    e.take r =
      ⟨(e.st.takeOffer r (some n) (.made .refused false)).onStream n
          (fun _ => (e.st.stream n).refusedShort r.beats.toNat),
        e.jobs ++ (e.st.stream n).refusedNotices n r.beats.toNat⟩ := by
  have hconst : ∀ f : Stream → Stream, (e.st.takeOffer r (some n) (.made .refused false)).onStream n f =
      (e.st.takeOffer r (some n) (.made .refused false)).onStream n (fun _ => f (e.st.stream n)) := fun f =>
    congrArg (State.setStreams _) (updAt_const _ n f)
  unfold Ev.take
  dsimp only
  rw [h]
  dsimp only
  unfold Stream.refusedNotices
  by_cases hc : (e.st.stream n).credit < r.beats.toNat ∧ (e.st.stream n).noted = false
  · rw [if_pos hc, if_pos hc]
    have hmark : ({ (e.st.stream n).refused with noted := true } : Stream) = (e.st.stream n).refusedShort r.beats.toNat := by
      unfold Stream.refusedShort
      rw [decide_eq_true hc.1, Bool.or_true]
    rw [← hmark, ← hconst (fun st => { st.refused with noted := true })]
    simp only [Ev.map, Ev.raise, onStream_onStream, List.append_assoc, List.cons_append, List.nil_append]
  · rw [if_neg hc, if_neg hc]
    have hmark : (e.st.stream n).refused = (e.st.stream n).refusedShort r.beats.toNat := by
      unfold Stream.refusedShort
      have hsame : ((e.st.stream n).noted || decide ((e.st.stream n).credit < r.beats.toNat)) = (e.st.stream n).noted := by
        cases hn : (e.st.stream n).noted with
        | true => rfl
        | false => rw [decide_eq_false fun hlt => hc ⟨hlt, hn⟩]; rfl
      rw [hsame]
      rfl
    rw [← hmark, ← hconst Stream.refused]
    rfl

theorem take_kept {e : Ev} {n : StreamId} (h : e.st.admission r = .kept n) :
    e.take r =
      if (e.st.keep r n).eligible (e.st.newRecord r n) = true then ⟨e.st.keep r n, e.jobs⟩
      else ⟨(e.st.keep r n).onStream n Stream.waited, e.jobs⟩ := by
  unfold Ev.take
  dsimp only
  rw [h]
  rfl

/-- A take appends one entry, which is not ABANDONED, and ends the offer (R37, R39). -/
theorem take_order (e : Ev) (r : Request) :
    (∃ x, (e.take r).st.order = e.st.order ++ [x] ∧ x.state ≠ .abandoned) ∧ (e.take r).st.up = e.st.up.taken := by
  rcases take_cases e r with ⟨stream, n, f, jobs, h, -⟩ | ⟨-, f, h, -⟩ <;> rw [h]
  · exact ⟨⟨_, rfl, EntryState.noConfusion⟩, rfl⟩
  · rw [keep_fields]
    exact ⟨⟨_, rfl, EntryState.noConfusion⟩, rfl⟩

theorem fill_up (e : Ev) : e.fill.st.up = e.st.up := by
  rcases fill_cases e with h | ⟨q, m, -, -, h⟩ | ⟨f, -, -, -, h⟩ <;> rw [h]
  · obtain ⟨a, -, ⟨-, h⟩ | ⟨n, jobs, -, h, -⟩⟩ := memoryAnswer_cases e q m <;> rw [h] <;> rfl
  · unfold Ev.map State.localAnswer
    dsimp only
    split <;> rfl

/-- The numbers of the UP port are all that a take reads of it. -/
theorem take_setUp (s : State) (v : UpPort) (jobs : List NoticeJob) (r : Request) (hseq : v.seq = s.up.seq)
    (hdraws : v.draws = s.up.draws) : Ev.take ⟨s.setUp v, jobs⟩ r = Ev.take ⟨s, jobs⟩ r := by
  obtain ⟨offer, lacking, seq, draws⟩ := v
  dsimp only at hseq hdraws
  subst hseq hdraws
  have hadmission : (s.setUp ⟨offer, lacking, s.up.seq, s.up.draws⟩).admission r = s.admission r := rfl
  unfold Ev.take
  dsimp only
  rw [hadmission]
  cases s.admission r with
  | malformed => rfl
  | overflow n => rfl
  | refused n => rfl
  | kept n =>
    dsimp only
    have hkeep : (s.setUp ⟨offer, lacking, s.up.seq, s.up.draws⟩).keep r n = s.keep r n := by
      rw [keep_fields, keep_fields]
      rfl
    have hrecord : (s.setUp ⟨offer, lacking, s.up.seq, s.up.draws⟩).newRecord r n = s.newRecord r n := rfl
    rw [hkeep, hrecord]
    rfl

/-- An event that brings a request to its take, and what it brings about: the take, the fill that follows it and the
judgements (R32). -/
theorem exec_take {c : Instr} (hb : s.Brings c r) (hm : s.dev.mode ≠ .draining) (hl : s.lacks r = Lacking.none) :
    exec c s = .next (Ev.take ⟨s, []⟩ r).fill.judge := by
  obtain ⟨⟨x, horder, -⟩, hup⟩ := take_order ⟨s, []⟩ r
  have hdown := (take_answer ⟨s, []⟩ r).2
  have hdev := (take_dev ⟨s, []⟩ r).1
  rcases hb with ⟨rfl, hr⟩ | ⟨rfl, hoffer, hreset, hnoted, hwait⟩
  · have htake : (s.present r).takeable = some r := takeable_some.mpr ⟨by rw [present_fields], hm, hl⟩
    have hable : Ev.takeIfAble ⟨s.present r, []⟩ = Ev.take ⟨s, []⟩ r := by
      unfold Ev.takeIfAble
      rw [htake]
      exact take_setUp s _ [] r rfl rfl
    rw [exec_requestOffer_open hr.released, happen_open hr.released hr.settled.drain]
    unfold Ev.map Ev.close Ev.brings
    dsimp only
    rw [discardResponse_held (u := s.present r) (responseHeld_congr hr.settled.noted.response rfl rfl),
      fill_of_waits (e := ⟨s.present r, []⟩) hr.settled.answers,
      complete_of_waits (e := ⟨s.present r, []⟩) (drainWaits_of_mode hm), hable]
  · have htake : s.takeable = some r := takeable_some.mpr ⟨hoffer, hm, hl⟩
    have hable : Ev.takeIfAble ⟨s, []⟩ = Ev.take ⟨s, []⟩ r := by
      unfold Ev.takeIfAble
      rw [htake]
    rw [exec_requestTake, happen_open hreset (drainWaits_of_mode hm), hable]
    unfold Ev.close Ev.brings
    generalize Ev.take ⟨s, []⟩ r = e at horder hup hdown hdev ⊢
    have hmode : e.fill.st.dev.mode ≠ .draining := by rw [(fill_dev e).1, hdev]; exact hm
    have hnone : e.fill.st.up.offer = none := by rw [fill_up, hup]; rfl
    rw [discardResponse_held (u := e.st) (hnoted.response.appended horder hdown), complete_of_waits (drainWaits_of_mode hmode),
      takeIfAble_of_waits (offerWaits_of_none hnone), fill_fill]

/-- A request that is not kept lacks an order entry alone (R34). -/
theorem lacks_none_of_refused (ho : s.order.length < 256) (hk : ∀ n, s.admission r ≠ .kept n) : s.lacks r = Lacking.none := by
  have horder : decide (Config.orderCapacity ≤ s.order.length) = false := decide_eq_false (Nat.not_le.mpr ho)
  unfold State.lacks
  rw [horder]
  cases h : s.admission r with
  | kept n => exact absurd h (hk n)
  | malformed => rfl
  | overflow n => rfl
  | refused n => rfl

/-! ### A refused request (R41, R42, R97) -/

/-- The state after the take of a refused request: REFUSED goes into the empty answer stage where the source has no
answer front, and otherwise its entry waits at the tail. -/
def State.refusedTake (s : State) (r : Request) (stream : Option StreamId) : State :=
  if s.answer.stage = none ∧ s.answerFront r.source = none then
    { s with
      up := s.up.taken
      answer := { stage := some { source := r.source, status := .refused, data := [] }, ptr := r.source } }
  else { s with up := s.up.taken, order := s.order ++ [s.newEntry r stream (.made .refused false)] }

/-- The fill that follows the take of a refused request (R97). -/
theorem fill_refused (hheld : s.responseHeld) (hwait : s.answersWait) (hmatch : s.StoreMatches) (stream : Option StreamId)
    (v : Vector Stream 16) (jobs : List NoticeJob) :
    Ev.fill ⟨(s.takeOffer r stream (.made .refused false)).setStreams v, jobs⟩ =
      ⟨(s.refusedTake r stream).setStreams v, jobs⟩ := by
  have horder : ((s.takeOffer r stream (.made .refused false)).setStreams v).order =
      s.order ++ [s.newEntry r stream (.made .refused false)] := rfl
  have hlocal : (s.newEntry r stream (.made .refused false)).state.isLocal = true := rfl
  have hne : (s.newEntry r stream (.made .refused false)).state ≠ .abandoned := EntryState.noConfusion
  unfold State.refusedTake
  by_cases hc : s.answer.stage = none ∧ s.answerFront r.source = none
  · obtain ⟨ha, hl⟩ := hwait hc.1
    have hfill := fill_local (e := ⟨(s.takeOffer r stream (.made .refused false)).setStreams v, jobs⟩) hc.1
      ((answerable_append hheld horder hne rfl).trans ha) (localChoice_append_some hl horder hlocal hc.2)
    have hremoved : removeEntry s.up.draws (s.order ++ [s.newEntry r stream (.made .refused false)]) = s.order := by
      have hgone : [s.newEntry r stream (.made .refused false)].filter (fun e => e.draw ≠ s.up.draws) = [] :=
        List.filter_cons_of_neg (by simp [State.newEntry])
      have hkeep : s.order.filter (fun e => e.draw ≠ s.up.draws) = s.order :=
        List.filter_eq_self.mpr fun e he => decide_eq_true (Nat.ne_of_lt (hmatch.drawn e he))
      rw [removeEntry_eq, List.filter_append, hkeep, hgone, List.append_nil]
    rw [hfill, if_pos hc]
    unfold Ev.map
    dsimp only
    rw [localAnswer_fields (status := .refused) (ghost := false) rfl]
    exact congrArg (fun l => (⟨{ s with
      up := s.up.taken
      order := l
      answer := { stage := some { source := r.source, status := .refused, data := [] }, ptr := r.source }
      streams := v }, jobs⟩ : Ev)) hremoved
  · rw [if_neg hc]
    refine fill_of_waits (e := ⟨(s.takeOffer r stream (.made .refused false)).setStreams v, jobs⟩) fun hstage => ?_
    obtain ⟨ha, hl⟩ := hwait hstage
    exact ⟨(answerable_append hheld horder hne rfl).trans ha,
      localChoice_append_none hl horder hne (.inr fun hnone => hc ⟨hstage, hnone⟩)⟩

theorem Brings.noted {c : Instr} (h : s.Brings c r) : s.Noted ∧ s.answersWait := by
  rcases h with ⟨-, hr⟩ | ⟨-, -, -, hn, ha⟩
  · exact ⟨hr.settled.noted, hr.settled.answers⟩
  · exact ⟨hn, ha⟩

/-- The take of a request that is refused, whatever the reason: its stream's record becomes one of v. -/
theorem exec_takeRefused {c : Instr} {stream : Option StreamId} {v : Vector Stream 16} {jobs : List NoticeJob}
    (hb : s.Brings c r) (hmatch : s.StoreMatches) (hm : s.dev.mode ≠ .draining) (ho : s.order.length < 256)
    (hk : ∀ n, s.admission r ≠ .kept n)
    (htake : Ev.take ⟨s, []⟩ r = ⟨(s.takeOffer r stream (.made .refused false)).setStreams v, jobs⟩) :
    ∃ t, exec c s = .next t ∧ Judged ((s.refusedTake r stream).setStreams v) jobs t := by
  obtain ⟨hnoted, hwait⟩ := Brings.noted hb
  refine ⟨_, exec_take hb hm (lacks_none_of_refused ho hk), ?_⟩
  rw [htake, fill_refused hnoted.response hwait hmatch]
  exact judge_judged _ _

end Sys2Proof.Machine
end

section
/-! The take of a refused and of a kept request (R38 to R44). -/

namespace Sys2Proof.Machine

variable {s : State} {r : Request}

theorem admission_malformed (h : r.wellFormed = false) : s.admission r = .malformed := by
  unfold State.admission
  rw [h]
  rfl

theorem admission_overflow (hw : r.wellFormed = true)
    (hl : (s.stream (s.classify r)).live.holdLimit ≤ (s.queue (s.classify r)).length) :
    s.admission r = .overflow (s.classify r) := by
  unfold State.admission
  rw [if_pos hw]
  exact if_pos hl

theorem admission_refused (hw : r.wellFormed = true)
    (hl : (s.queue (s.classify r)).length < (s.stream (s.classify r)).live.holdLimit)
    (hr : s.refuses (s.classify r) r.beats.toNat = true) : s.admission r = .refused (s.classify r) := by
  unfold State.admission
  rw [if_pos hw]
  exact (if_neg (Nat.not_le.mpr hl)).trans (if_pos hr)

/-- The data of a request that carries its beats is stored as it is (R43, R173). -/
theorem keep_carried (h : r.carriesItsBeats = true) (n : StreamId) :
    s.keep r n =
      { s with
        up := s.up.taken, order := s.order ++ [s.newEntry r (some n) .queued], store := s.store ++ [s.newRecord r n]
        wdb := if r.kind = .write then s.wdb ++ [{ key := s.up.draws, data := r.data }] else s.wdb } := by
  rw [keep_fields]
  by_cases hk : r.kind = .write
  · have hlen : r.data.length = r.beats.toNat := by
      unfold Request.carriesItsBeats at h
      rw [hk] at h
      exact beq_iff_eq.mp h
    rw [← hlen, fitBeats_exact]
  · rw [if_neg hk, if_neg hk]

/-- No resource lacks where each has room for the request (R34). -/
theorem lacks_none (ho : s.order.length < 256) (hs : s.store.length < 96)
    (hd : r.kind = .write → s.bufferUsed + r.beats.toNat ≤ 1024) : s.lacks r = Lacking.none := by
  obtain ⟨horder, hstore, hdata⟩ := lacks_iff s r
  have ho' : (s.lacks r).order = false := Bool.eq_false_iff.mpr fun h => Nat.not_le.mpr ho (horder.mp h)
  have hs' : (s.lacks r).store = false := Bool.eq_false_iff.mpr fun h => Nat.not_le.mpr hs (hstore.mp h).2
  have hd' : (s.lacks r).data = false := Bool.eq_false_iff.mpr fun h =>
    Nat.not_lt.mpr (hd (hdata.mp h).2.1) (hdata.mp h).2.2
  calc s.lacks r = ⟨(s.lacks r).order, (s.lacks r).store, (s.lacks r).data⟩ := rfl
    _ = Lacking.none := by rw [ho', hs', hd']; rfl

/-- The take of a refused request changes no stream's record but as v says. -/
theorem refusedTake_streams (s : State) (r : Request) (stream : Option StreamId) :
    (s.refusedTake r stream).setStreams s.streams = s.refusedTake r stream := by
  unfold State.refusedTake
  split <;> rfl

theorem newRecord_fields (s : State) (r : Request) (n : StreamId) :
    s.newRecord r n =
      { source := r.source, kind := r.kind, address := r.address, beats := r.beats.toNat, stream := n, seq := s.up.seq,
        draw := s.up.draws, writeRef := if r.kind = .write then some s.up.draws else none,
        age := if (s.stream n).live.ageLimit = 0 then none else some (s.stream n).live.ageLimit, urgent := false } := by
  unfold State.newRecord
  cases r.kind <;> rfl

/-- The state after the take of a kept request: it waited unless its record is at once an eligible head (R44). -/
def State.keptTake (s : State) (r : Request) (n : StreamId) : State :=
  if (s.keep r n).eligible (s.newRecord r n) = true then s.keep r n else (s.keep r n).onStream n Stream.waited

/-- No answer becomes ready by the take of a kept request. -/
theorem fill_kept {n : StreamId} (hheld : s.responseHeld) (hwait : s.answersWait) (hk : s.admission r = .kept n)
    (jobs : List NoticeJob) : (Ev.take ⟨s, jobs⟩ r).fill = ⟨s.keptTake r n, jobs⟩ := by
  have hkept : ∀ t : State, t.order = s.order ++ [s.newEntry r (some n) .queued] → t.downResp = s.downResp →
      t.answer = s.answer → t.answersWait := fun t ho hd ha hstage => by
    rw [ha] at hstage
    obtain ⟨hans, hloc⟩ := hwait hstage
    exact ⟨(answerable_append hheld ho EntryState.noConfusion hd).trans hans,
      localChoice_append_none hloc ho EntryState.noConfusion (.inl rfl)⟩
  rw [take_kept (e := ⟨s, jobs⟩) hk]
  unfold State.keptTake
  split
  · exact fill_of_waits (e := ⟨s.keep r n, jobs⟩)
      (hkept _ (by rw [keep_fields]) (by rw [keep_fields]) (by rw [keep_fields]))
  · exact fill_of_waits (e := ⟨(s.keep r n).onStream n Stream.waited, jobs⟩)
      (hkept _ (by rw [keep_fields]; rfl) (by rw [keep_fields]; rfl) (by rw [keep_fields]; rfl))

theorem exec_takeKept {c : Instr} {n : StreamId} (hb : s.Brings c r) (hm : s.dev.mode ≠ .draining)
    (hl : s.lacks r = Lacking.none) (hk : s.admission r = .kept n) :
    ∃ t, exec c s = .next t ∧ Judged (s.keptTake r n) [] t := by
  obtain ⟨hnoted, hwait⟩ := Brings.noted hb
  refine ⟨_, exec_take hb hm hl, ?_⟩
  rw [fill_kept hnoted.response hwait hk]
  exact judge_judged _ _

end Sys2Proof.Machine

namespace Sys2Proof.Proofs

open Sys2Proof Sys2Proof.Machine

/-- Settles O15. -/
theorem takeOfARefusedRequest : Obligations.TakeOfARefusedRequest := by
  intro s c r hb hmatch hm ho n st refused counted
  have hset : ∀ (stream : Option StreamId) (v : Vector Machine.Stream 16),
      { refused stream with streams := v } = (s.refusedTake r stream).setStreams v := fun _ _ => rfl
  refine ⟨fun hw => ?_, fun hw hl => ?_, fun hw hl hmode hreg hpol hwhy => ?_⟩
  · have hadm := admission_malformed (s := s) hw
    have hsame : refused none = (s.refusedTake r none).setStreams s.streams := (refusedTake_streams s r none).symm
    rw [hsame]
    exact exec_takeRefused hb hmatch hm ho (fun _ h => by rw [hadm] at h; cases h) (take_malformed (e := ⟨s, []⟩) hadm)
  · have hadm := admission_overflow hw hl
    rw [hset]
    refine exec_takeRefused hb hmatch hm ho (fun _ h => by rw [hadm] at h; cases h)
      ((take_overflow (e := ⟨s, []⟩) hadm).trans ?_)
    exact congrArg (fun v => (⟨State.setStreams _ v, _⟩ : Ev)) (updAt_const s.streams n Stream.refused)
  · have hadm := admission_refused hw hl ((refuses_iff s n r.beats.toNat).mpr ⟨hmode, hreg, hpol, hwhy⟩)
    rw [hset]
    exact exec_takeRefused hb hmatch hm ho (fun _ h => by rw [hadm] at h; cases h) (take_refused (e := ⟨s, []⟩) hadm)

/-- Settles O16. -/
theorem takeOfAKeptRequest : Obligations.TakeOfAKeptRequest := by
  intro s c r hb hm ho n st x joined hw hbeats hl hpol hstore hdata
  have hadm : s.admission r = .kept n :=
    (admission_kept_iff s r).mpr ⟨hw, hl, fun h => hpol ((refuses_iff s n r.beats.toNat).mp h)⟩
  have hjoined : s.keep r n = joined := by
    rw [keep_carried hbeats, newRecord_fields]
    rfl
  have hx : s.newRecord r n = x := newRecord_fields s r n
  obtain ⟨t, ht, hjudged⟩ := exec_takeKept hb hm (lacks_none ho hstore hdata) hadm
  refine ⟨t, ht, ?_⟩
  unfold State.keptTake at hjudged
  rw [hjoined, hx] at hjudged
  by_cases he : joined.eligible x = true
  · rw [if_pos he] at hjudged ⊢
    exact hjudged
  · have hwaited : joined.onStream n Stream.waited =
        { joined with
          streams := updAt s.streams n (fun _ =>
            { st with counters := { st.counters with waitedRequests := st.counters.waitedRequests + 1 } }) } :=
      congrArg (State.setStreams joined) (updAt_const s.streams n Stream.waited)
    rw [if_neg he] at hjudged ⊢
    rw [hwaited] at hjudged
    exact hjudged

end Sys2Proof.Proofs
end

section
/-! Cold reset and its release (10.11, R170, R171, R179). -/

namespace Sys2Proof.Machine

variable {s : State} {r : Request}

/-! ### What cold reset stops -/

theorem happenCommand_inReset (h : s.inReset = true) (d : Command) (f : Ev → Ev) : happenCommand d s f = .next s := by
  unfold happenCommand
  split <;> exact event_inReset h _

/-- Cold reset lets no event happen: every row but the partners' lines and the two of cold reset is one (R170). -/
theorem exec_inReset {c : Instr} (h : s.inReset = true) (hreq : ∀ r, c ≠ .requestOffer r)
    (hresp : ∀ r, c ≠ .responseOffer r) (hoffer : ∀ ch, c ≠ .offerWithdrawn ch) (hstart : c ≠ .spiFrameStart)
    (hend : ∀ cut, c ≠ .spiFrameEnd cut) (hcold : c ≠ .coldReset) (hrelease : c ≠ .coldResetRelease) :
    exec c s = .next s := by
  cases ht : wordTarget c with
  | some a =>
    rcases exec_wordTarget ht with ⟨f, hc⟩ | ⟨d, f, -, hc⟩ <;> rw [hc]
    · exact event_inReset h _
    · exact happenCommand_inReset h d _
  | none =>
    cases c with
    | requestOffer r => exact absurd rfl (hreq r)
    | responseOffer r => exact absurd rfl (hresp r)
    | offerWithdrawn ch => exact absurd rfl (hoffer ch)
    | spiFrameStart => exact absurd rfl hstart
    | spiFrameEnd cut => exact absurd rfl (hend cut)
    | coldReset => exact absurd rfl hcold
    | coldResetRelease => exact absurd rfl hrelease
    | requestTake => rw [exec_requestTake]; exact event_inReset h _
    | grant => rw [exec_grant]; exact event_inReset h _
    | issueTake => rw [exec_issueTake]; exact event_inReset h _
    | answerFill => rw [exec_answerFill]; exact event_inReset h _
    | answerTake => rw [exec_answerTake]; exact event_inReset h _
    | tapTick k => rw [exec_tapTick]; exact event_inReset h _
    | cycleEdge pin => rw [exec_cycleEdge]; exact event_inReset h _
    | frameStart t cause => rw [exec_frameStart]; exact event_inReset h _
    | frameStartDelivery t n => rw [exec_frameStartDelivery]; exact event_inReset h _
    | cascadeTick t => rw [exec_cascadeTick]; exact event_inReset h _
    | ageTick => rw [exec_ageTick]; exact event_inReset h _
    | forceExpiry d => rw [exec_forceExpiry]; exact event_inReset h _
    | dropExpiry d => rw [exec_dropExpiry]; exact event_inReset h _
    | presentation => rw [exec_presentation]; exact event_inReset h _
    | evackRise => rw [exec_evackRise]; exact event_inReset h _
    | evackFall => rw [exec_evackFall]; exact event_inReset h _
    | handshakeTimeout => rw [exec_handshakeTimeout]; exact event_inReset h _
    | wrstnFall => rw [exec_wrstnFall]; exact event_inReset h _
    | drainTimeout => rw [exec_drainTimeout]; exact event_inReset h _
    | warmResetCompletion => rw [exec_warmResetCompletion]; exact event_inReset h _
    | unknownOperation hd => rw [exec_unknownOperation]; exact event_inReset h _
    | unmappedRead a => rw [exec_unmappedRead]; exact event_inReset h _
    | _ => cases ht

/-! ### The release -/

/-- The state at the release, a standing response discarded. -/
def State.atRelease (s : State) : State := { s with inReset := false, downResp := none }

/-- The occurrence of a response that stands at the release (R93, R179). -/
def State.strayNotices (s : State) : List NoticeJob :=
  if s.downResp = none then [] else [.occur { source := 22, cause := .stray }]

theorem atRelease_fields (h : s.inReset = true) (hc : s.heldCold) :
    s.atRelease =
      { State.reset with
        pending := s.pending, freeCount := s.freeCount, up := { State.reset.up with offer := s.up.offer }
        mgmt := { State.reset.mgmt with selected := s.mgmt.selected } } :=
  congrArg (fun u => ({ u with inReset := false, downResp := none } : State)) (hc h)

/-- The release discards a standing response as a stray. -/
theorem release_discards (hempty : s.order = []) :
    (Ev.release ⟨s, []⟩).discardResponse = ⟨s.atRelease, s.strayNotices⟩ := by
  unfold State.strayNotices
  cases hq : s.downResp with
  | none =>
    have hsame : s.atRelease = s.setInReset false :=
      (congrArg (fun d => ({ s with inReset := false, downResp := d } : State)) hq).symm
    rw [if_pos rfl, hsame]
    exact discardResponse_held fun q hr => by rw [State.setInReset_downResp, hq] at hr; cases hr
  | some q =>
    have hnone : (s.setInReset false).oldestDue q.source = none := by
      unfold State.oldestDue
      rw [State.setInReset_order, hempty]
      rfl
    rw [if_neg (Option.some_ne_none q)]
    exact discardResponse_stray (e := Ev.release ⟨s, []⟩) hq hnone

/-- The release of a state that is cold but for the partners' lines. -/
structure State.ColdRelease (u : State) : Prop where
  order : u.order = []
  store : u.store = []
  wdb : u.wdb = []
  answer : u.answer = { stage := none, ptr := 63 }
  response : u.downResp = none
  mode : u.dev.mode = .bypass
  streams : ∀ n, u.stream n = Stream.cold
  matchList : ∀ i, (cell u.matchList i).valid = false
  seq : u.up.seq = 0
  draws : u.up.draws = 0

theorem atRelease_cold (h : s.inReset = true) (hc : s.heldCold) : s.atRelease.ColdRelease := by
  rw [atRelease_fields h hc]
  exact ⟨rfl, rfl, rfl, rfl, rfl, rfl, reset_stream, fun i => congrArg MatchEntry.valid (cell_replicate _ i), rfl, rfl⟩

namespace State.ColdRelease

variable {u : State}

theorem held (h : u.ColdRelease) : u.responseHeld := fun q hq => by rw [h.response] at hq; cases hq

theorem answersWait (h : u.ColdRelease) : u.answersWait := fun _ =>
  ⟨answerable_of_none h.response, localChoice_of_empty h.order⟩

theorem notDraining (h : u.ColdRelease) : u.dev.mode ≠ .draining := by rw [h.mode]; exact DeviceMode.noConfusion

theorem storeMatches (h : u.ColdRelease) : u.StoreMatches := by
  refine ⟨?_, ?_, ?_⟩
  · unfold State.queuedEntries
    rw [h.store, h.order]
    rfl
  · rw [h.order]
    exact List.Pairwise.nil
  · rw [h.order]
    exact fun _ he => absurd he List.not_mem_nil

theorem queue (h : u.ColdRelease) (n : StreamId) : u.queue n = [] := by
  unfold State.queue
  rw [h.store]
  rfl

theorem classify (h : u.ColdRelease) (r : Request) : u.classify r = 0 :=
  classify_of_none fun i => by
    unfold MatchEntry.hits
    rw [h.matchList i]
    rfl

theorem lacks (h : u.ColdRelease) {r : Request} (hb : r.beats.toNat ≤ 1024) : u.lacks r = Lacking.none := by
  have hused : u.bufferUsed = 0 := by
    unfold State.bufferUsed
    rw [h.wdb]
    rfl
  refine lacks_none (by rw [h.order]; exact (by decide : 0 < 256)) (by rw [h.store]; exact (by decide : 0 < 96)) fun _ => ?_
  rw [hused, Nat.zero_add]
  exact hb

theorem kept (h : u.ColdRelease) (hw : r.wellFormed = true) : u.admission r = .kept 0 := by
  have hn := h.classify r
  have hk : u.admission r = .kept (u.classify r) := by
    refine (admission_kept_iff u r).mpr ⟨hw, ?_, fun href => ?_⟩
    · rw [h.queue, h.streams]
      exact (by decide : 0 < 96)
    · obtain ⟨hon, -⟩ := (refuses_iff u _ _).mp href
      rw [h.streams] at hon
      cases hon
  rwa [hn] at hk

/-- The first record of the empty store is at once an eligible head, stream 0 being OFF (R44, R54). -/
theorem eligible (h : u.ColdRelease) (r : Request) : (u.keep r 0).eligible (u.newRecord r 0) = true := by
  have hstore : (u.keep r 0).store = [u.newRecord r 0] := by rw [keep_fields, h.store]; rfl
  have horder : (u.keep r 0).order = [u.newEntry r (some 0) .queued] := by rw [keep_fields, h.order]; rfl
  have hmode : (u.keep r 0).dev.mode = .bypass := by rw [keep_fields]; exact h.mode
  refine ((u.keep r 0).eligible_iff _).mpr ⟨?_, ?_, .inr (.inl fun hreg => ?_)⟩
  · unfold State.isHead State.queueHead
    rw [hstore, List.find?_cons_of_pos (p := fun x : StoreRec => x.stream == (u.newRecord r 0).stream) (beq_self_eq_true _)]
    exact beq_self_eq_true _
  · unfold State.orderOk State.oldestQueued
    rw [horder, List.find?_cons_of_pos (by simp [State.newEntry, State.newRecord])]
    exact beq_self_eq_true _
  · have hreg' := (((u.keep r 0).regulated_iff 0).mp hreg).2
    rw [hmode] at hreg'
    cases hreg'

theorem keep_fields (h : u.ColdRelease) {r : Request} (hb : r.carriesItsBeats = true) :
    u.keep r 0 =
      { u with
        up := u.up.taken
        order :=
          [{ source := r.source, stream := some 0, kind := r.kind, beats := r.beats.toNat, state := .queued, draw := 0 }]
        store :=
          [{ source := r.source, kind := r.kind, address := r.address, beats := r.beats.toNat, stream := 0, seq := 0,
             draw := 0, writeRef := if r.kind = .write then some 0 else none, age := none, urgent := false }]
        wdb := if r.kind = .write then [{ key := 0, data := r.data }] else [] } := by
  have hage : (u.stream 0).live.ageLimit = 0 := by rw [h.streams]; rfl
  rw [keep_carried hb, newRecord_fields, hage, if_pos rfl]
  unfold State.newEntry
  rw [h.seq, h.draws, h.order, h.store, h.wdb]
  rfl

end State.ColdRelease

theorem brings_take {e : Ev} (hwait : e.st.answersWait) (hm : e.st.dev.mode ≠ .draining) (ht : e.st.takeable = some r) :
    e.brings = (e.take r).fill := by
  unfold Ev.brings Ev.takeIfAble
  rw [fill_of_waits hwait, complete_of_waits (drainWaits_of_mode hm), ht]

/-- The release out of cold reset, what it discards apart. -/
theorem exec_release (h : s.inReset = true) (hc : s.heldCold) :
    exec .coldResetRelease s = .next (Ev.brings ⟨s.atRelease, s.strayNotices⟩).judge := by
  have hempty : s.order = [] := (atRelease_cold h hc).order
  rw [exec_coldResetRelease, if_pos h]
  unfold Ev.close
  rw [release_discards hempty]

/-- A release with no offer on UP. -/
theorem release_idle (h : s.inReset = true) (hc : s.heldCold) (ho : s.up.offer = none) :
    ∃ t, exec .coldResetRelease s = .next t ∧ Judged s.atRelease s.strayNotices t := by
  have hcold := atRelease_cold h hc
  refine ⟨_, exec_release h hc, ?_⟩
  rw [brings_of_waits (e := ⟨s.atRelease, s.strayNotices⟩) (offerWaits_of_none ho) (drainWaits_of_mode hcold.notDraining)
    hcold.answersWait]
  exact judge_judged _ _

/-- A release at which a malformed offer is answered REFUSED. -/
theorem release_malformed (h : s.inReset = true) (hc : s.heldCold) (ho : s.up.offer = some r) (hw : r.wellFormed = false) :
    ∃ t, exec .coldResetRelease s = .next t ∧
      Judged (s.atRelease.refusedTake r none) (s.strayNotices ++ [.occur { source := 22, cause := .malformed }]) t := by
  have hcold := atRelease_cold h hc
  have hadm := admission_malformed (s := s.atRelease) hw
  have hlen : s.atRelease.order.length < 256 := by rw [hcold.order]; exact (by decide : 0 < 256)
  have htake : s.atRelease.takeable = some r := takeable_some.mpr ⟨ho, hcold.notDraining,
    lacks_none_of_refused hlen fun _ hk => by rw [hadm] at hk; cases hk⟩
  refine ⟨_, exec_release h hc, ?_⟩
  rw [brings_take (e := ⟨s.atRelease, s.strayNotices⟩) hcold.answersWait hcold.notDraining htake,
    take_malformed (e := ⟨s.atRelease, s.strayNotices⟩) hadm, fill_refused hcold.held hcold.answersWait hcold.storeMatches, refusedTake_streams]
  exact judge_judged _ _

/-- A release at which a well-formed offer is kept in stream 0. -/
theorem release_kept (h : s.inReset = true) (hc : s.heldCold) (ho : s.up.offer = some r) (hw : r.wellFormed = true) :
    ∃ t, exec .coldResetRelease s = .next t ∧ Judged (s.atRelease.keep r 0) s.strayNotices t := by
  have hcold := atRelease_cold h hc
  have hbeats : r.beats.toNat ≤ 1024 := ((wellFormed_iff r).mp hw).2.1.trans (by decide)
  have htake : s.atRelease.takeable = some r := takeable_some.mpr ⟨ho, hcold.notDraining, hcold.lacks hbeats⟩
  refine ⟨_, exec_release h hc, ?_⟩
  rw [brings_take (e := ⟨s.atRelease, s.strayNotices⟩) hcold.answersWait hcold.notDraining htake,
    fill_kept hcold.held hcold.answersWait (hcold.kept hw)]
  unfold State.keptTake
  rw [if_pos (hcold.eligible r)]
  exact judge_judged _ _

end Sys2Proof.Machine

namespace Sys2Proof.Proofs

open Sys2Proof Sys2Proof.Machine

/-- Settles O35. -/
theorem coldResetAndRelease : Obligations.ColdResetAndRelease := by
  refine ⟨fun s => (exec_coldReset s).trans (congrArg _ (coldReset_fields s)), fun s r h hc => ?_, fun s r h => ?_, fun s h => ?_, fun s cut h => ?_,
    fun s h hc ho hd => ?_, fun s h hc => ?_, fun s h => ?_, fun s h => ?_,
    fun s c h h1 h2 h3 h4 h5 h6 h7 => exec_inReset h h1 h2 h3 h4 h5 h6 h7⟩
  · have hlacking : (if s.up.offer = none then Lacking.none else s.up.lacking) = s.up.lacking := by
      have hup : s.up.lacking = Lacking.none := congrArg (fun u : State => u.up.lacking) (hc h)
      rw [hup, ite_self]
    rw [exec_requestOffer, if_pos h, present_fields, hlacking]
  · rw [exec_responseOffer, if_pos h]
    rfl
  · rw [exec_spiFrameStart, if_pos h]
    rfl
  · rw [exec_spiFrameEnd, if_pos h]
    rfl
  · have hsame : s.atRelease = { s with inReset := false } :=
      (congrArg (fun d => ({ s with inReset := false, downResp := d } : State)) hd).symm
    have hsettled : s.atRelease.Settled := by
      rw [atRelease_fields h hc, ho]
      exact reset_ready.settled.other rfl reset_ready.settled.noted.presented
    have hquiet : s.strayNotices = [] := if_pos hd
    rw [exec_release h hc, hquiet, brings_of_waits (e := ⟨s.atRelease, []⟩) hsettled.offer hsettled.drain hsettled.answers,
      judge_noted hsettled.noted, hsame]
  · intro stray released
    have hcold := atRelease_cold h hc
    refine ⟨release_idle h hc, fun r ho hw => ?_, fun r ho hw hb => ?_⟩
    · have hjudged := release_malformed h hc ho hw
      have hfront : s.atRelease.answerFront r.source = none := by
        unfold State.answerFront
        rw [hcold.order]
        rfl
      unfold State.refusedTake at hjudged
      rw [if_pos ⟨by rw [hcold.answer], hfront⟩] at hjudged
      exact hjudged
    · have hjudged := release_kept h hc ho hw
      rw [hcold.keep_fields hb] at hjudged
      exact hjudged
  · rw [exec_coldResetRelease, h]
    rfl
  · refine ⟨?_, ?_, ?_⟩
    · unfold State.upResponse
      rw [h]
      rfl
    · unfold State.downRequest
      rw [h]
      rfl
    · unfold State.sdo
      rw [h]
      rfl

end Sys2Proof.Proofs
end

section
/-! What the end of an event leaves (10): the device control, the timers and the management port but for the completion
of a warm reset, and the judgements made. -/

namespace Sys2Proof.Machine

variable {s u : State}

/-! ### What an event brings about leaves the rest -/

/-- A fill changes the answer block, the order table, the response on DOWN and a stream's record alone (R91, R98). -/
theorem fill_rest (e : Ev) :
    e.fill.st =
      { e.st with
        answer := e.fill.st.answer, order := e.fill.st.order, downResp := e.fill.st.downResp
        streams := e.fill.st.streams } := by
  rcases fill_cases e with h | ⟨q, m, -, -, h⟩ | ⟨f, -, -, hl, h⟩ <;> rw [h]
  · obtain ⟨a, -, ⟨-, h⟩ | ⟨n, jobs, -, h, -⟩⟩ := memoryAnswer_cases e q m <;> rw [h] <;> rfl
  · obtain ⟨-, -, -, status, ghost, hs⟩ := localChoice_some hl
    unfold Ev.map
    dsimp only
    rw [localAnswer_fields hs]

/-- A take changes the UP port, the order table, the store, the buffer and a stream's record alone (R37 to R44). -/
theorem take_rest (e : Ev) (r : Request) :
    (e.take r).st =
      { e.st with
        up := (e.take r).st.up, order := (e.take r).st.order, store := (e.take r).st.store, wdb := (e.take r).st.wdb
        streams := (e.take r).st.streams } := by
  rcases take_cases e r with ⟨_, _, _, _, h, -⟩ | ⟨-, _, h, -⟩ <;> rw [h]
  · rfl
  · rw [keep_fields]
    rfl

theorem takeIfAble_rest (e : Ev) :
    e.takeIfAble.st =
      { e.st with
        up := e.takeIfAble.st.up, order := e.takeIfAble.st.order, store := e.takeIfAble.st.store
        wdb := e.takeIfAble.st.wdb, streams := e.takeIfAble.st.streams } := by
  rcases takeIfAble_cases e with ⟨-, h⟩ | ⟨r, -, h⟩ <;> rw [h]
  exact take_rest e r

/-- What a fill, a take and the judgements read and leave: the blocks that no end of an event changes, the completion of
a warm reset apart. -/
structure SameControl (s t : State) : Prop where
  dev : t.dev = s.dev
  inReset : t.inReset = s.inReset
  timers : t.timers = s.timers
  mgmt : t.mgmt = s.mgmt
  issue : t.issue = s.issue

theorem SameControl.refl (s : State) : SameControl s s := ⟨rfl, rfl, rfl, rfl, rfl⟩

theorem SameControl.trans {a b c : State} (h : SameControl a b) (k : SameControl b c) : SameControl a c :=
  ⟨k.dev.trans h.dev, k.inReset.trans h.inReset, k.timers.trans h.timers, k.mgmt.trans h.mgmt, k.issue.trans h.issue⟩

theorem fill_control (e : Ev) : SameControl e.st e.fill.st := by
  rw [fill_rest]
  exact ⟨rfl, rfl, rfl, rfl, rfl⟩

theorem takeIfAble_control (e : Ev) : SameControl e.st e.takeIfAble.st := by
  rw [takeIfAble_rest]
  exact ⟨rfl, rfl, rfl, rfl, rfl⟩

theorem discardResponse_control (e : Ev) : SameControl e.st e.discardResponse.st := by
  rw [discardResponse_rest]
  exact ⟨rfl, rfl, rfl, rfl, rfl⟩

theorem judge_control (e : Ev) : SameControl e.st e.judge := by
  rw [judge_rest]
  exact ⟨rfl, rfl, rfl, rfl, rfl⟩

theorem closeStart_control (e : Ev) : SameControl e.st e.closeStart :=
  ((((discardResponse_control e).trans (fill_control _)).trans (takeIfAble_control _)).trans (fill_control _)).trans
    (judge_control _)

/-- Where no completion comes about the end of an event leaves these blocks. -/
theorem brings_control {e : Ev} (h : e.fill.st.drainWaits) : SameControl e.st e.brings.st := by
  unfold Ev.brings
  rw [complete_of_waits h]
  exact ((fill_control e).trans (takeIfAble_control _)).trans (fill_control _)

/-- The end of an event keeps the result and the error that a command has recorded. -/
theorem close_results (e : Ev) :
    e.close.mgmt.cmdResult = e.st.mgmt.cmdResult ∧ e.close.mgmt.lastError = e.st.mgmt.lastError := by
  have hkeep : ∀ {a b : State}, SameControl a b →
      (a.mgmt.cmdResult = e.st.mgmt.cmdResult ∧ a.mgmt.lastError = e.st.mgmt.lastError) →
      b.mgmt.cmdResult = e.st.mgmt.cmdResult ∧ b.mgmt.lastError = e.st.mgmt.lastError := fun hab ha => by
    rw [hab.mgmt]
    exact ha
  refine close_induction (P := fun u => u.mgmt.cmdResult = e.st.mgmt.cmdResult ∧ u.mgmt.lastError = e.st.mgmt.lastError)
    (fun e => hkeep (discardResponse_control e)) (fun e => hkeep (fill_control e)) (fun s hs _ => ?_)
    (fun e r hs _ => ?_) (fun e => hkeep (judge_control e)) e ⟨rfl, rfl⟩
  · rw [warmComplete_fields]
    exact hs
  · rw [take_rest]
    exact hs

/-! ### The completion (R167) -/

/-- After the completion no answer is ready and the drain is behind. -/
theorem warmComplete_waits (h : s.drainOver) : s.warmComplete.answersWait ∧ s.warmComplete.drainWaits := by
  rw [warmComplete_fields]
  refine ⟨State.drainOver.answersWait ⟨h.1, rfl, rfl⟩, drainWaits_of_mode DeviceMode.noConfusion⟩

/-- What an event at the end of a drain brings about it brings about after the completion. -/
theorem brings_drained (hm : s.dev.mode = .draining) (ho : s.drainOver) (jobs : List NoticeJob) :
    Ev.brings ⟨s, jobs⟩ = Ev.brings ⟨s.warmComplete, jobs⟩ := by
  have hcomplete : Ev.complete ⟨s, jobs⟩ = ⟨s.warmComplete, jobs⟩ := by
    rcases complete_cases ⟨s, jobs⟩ with ⟨hd, -⟩ | ⟨-, hc⟩
    · rw [(drained_iff s).mpr ⟨hm, ho⟩] at hd
      cases hd
    · exact hc
  obtain ⟨ha, hd⟩ := warmComplete_waits ho
  unfold Ev.brings
  rw [fill_of_waits (e := ⟨s, jobs⟩) ho.answersWait, hcomplete, fill_of_waits (e := ⟨s.warmComplete, jobs⟩) ha,
    complete_of_waits (e := ⟨s.warmComplete, jobs⟩) hd]

/-- An event at the end of a drain ends as one with the warm values. -/
theorem ends_drained {t : State} {jobs : List NoticeJob} (hm : s.dev.mode = .draining) (ho : s.drainOver) :
    Ends s jobs t ↔ Ends s.warmComplete jobs t := by
  unfold Ends
  rw [brings_drained hm ho]

/-- The warm values that an event with the completion leaves (R167). -/
theorem ends_warm {t : State} {jobs : List NoticeJob} (ho : s.drainOver) (h : Ends s.warmComplete jobs t) :
    t.dev.mode = .bypass ∧ t.dev.drainRunning = false ∧ ∀ x, (t.timer x).state = .stopped ∧ (t.timer x).count = 0 := by
  obtain ⟨ha, hd⟩ := warmComplete_waits ho
  have hcontrol := brings_control (e := ⟨s.warmComplete, jobs⟩) (by rw [fill_of_waits ha]; exact hd)
  have hkept := h.kept
  have hdev : t.dev = s.warmComplete.dev := by rw [hkept]; exact hcontrol.dev
  have htimers : t.timers = s.warmComplete.timers := by rw [hkept]; exact hcontrol.timers
  have hcell : ∀ x, t.timer x = s.warmComplete.timer x := fun x => by
    unfold State.timer
    rw [htimers]
  refine ⟨by rw [hdev, (warmComplete_dev s).1], ?_, fun x => ?_⟩
  · rw [hdev, warmComplete_fields]
  · rw [hcell, warmComplete_fields]
    unfold State.timer
    dsimp only
    rw [cell_mapAll]
    exact ⟨rfl, rfl⟩

end Sys2Proof.Machine
end

section
/-! The start of a warm reset and its completion (10.3, 10.4, 10.8). -/

namespace Sys2Proof.Machine

variable {s u b : State}

/-! ### The judgements made (R34, R71, R151) -/

/-- The judgements leave what they read. -/
theorem judge_samePlan (e : Ev) :
    SamePlan { e.st with up := { e.st.up with lacking := e.judge.up.lacking }, nt := e.judge.nt
                         freeCount := e.judge.freeCount } e.judge where
  rest := judge_rest e
  live n := by rw [judge_stream]; rfl
  mode n := by rw [judge_stream]; rfl
  credit n := by rw [judge_stream]; rfl

/-- After the judgements each has been made, where a response on DOWN is a held one. -/
theorem judge_noted_of_held {e : Ev} (h : e.st.responseHeld) : e.judge.Noted := by
  have hj := judge_judged e.st e.jobs
  have hrest := judge_rest e
  obtain ⟨l, -, hnt⟩ := judge_nt e
  have hplan := judge_samePlan e
  refine ⟨?_, fun n hs => ?_, ?_, ?_⟩
  · rw [hrest]
    exact h
  · have hshort : e.st.headShort n = true := (hplan.headShort n).symm.trans hs
    rw [judge_stream, hshort]
    exact Bool.or_true _
  · have hstall : e.judge.stall = e.st.stall := hplan.stall
    have hup : e.judge.up = { e.st.up with lacking := e.st.stall } := hj.offer
    unfold State.stallNoted
    rw [hstall, hup]
  · rw [hnt]
    exact runAll_presented _ _

/-! ### The start (R162, R163) -/

/-- The state after the start of a warm reset, with what its command says of itself at the management port. -/
def State.started (s : State) (m : Mgmt) : State := s.warmStart.setMgmt m

theorem started_fields (s : State) (m : Mgmt) :
    s.started m =
      { s with
        dev := { s.dev with mode := .draining, drainRunning := true, drainTimer := 0 }
        store := [], wdb := s.wdb.filter s.stageHolds, order := abortQueued s.order
        timers := mapAll s.timers (fun _ t => t.stop), nt := s.nt.warmStart
        up := { s.up with lacking := Lacking.none }, mgmt := m } := by
  unfold State.started
  rw [warmStart_fields]
  rfl

/-- Where every entry keeps its source and whether it is response-due, and an ISSUED one all of it, a held response stays
held. -/
theorem responseHeld_map {u : State} {f : OrderEntry → OrderEntry} (h : s.responseHeld) (horder : u.order = s.order.map f)
    (hresp : u.downResp = s.downResp)
    (hf : ∀ e, (f e).source = e.source ∧ (f e).state.responseDue = e.state.responseDue)
    (hi : ∀ e, e.state = .issued → f e = e) : u.responseHeld := by
  intro q hq
  rw [hresp] at hq
  obtain ⟨m, hm, hissued⟩ := h q hq
  refine ⟨m, ?_, hissued⟩
  have hcomp : ((fun e : OrderEntry => e.source == q.source && e.state.responseDue) ∘ f) =
      fun e => e.source == q.source && e.state.responseDue := funext fun e => by
    rw [Function.comp_apply, (hf e).1, (hf e).2]
  unfold State.oldestDue at hm ⊢
  rw [horder, List.find?_map, hcomp, hm]
  exact congrArg some (hi m hissued)

/-- The start keeps the oldest response-due entry of each source as it is, if it is ISSUED. -/
theorem started_held (h : s.responseHeld) (m : Mgmt) : (s.started m).responseHeld := by
  refine responseHeld_map h (by rw [started_fields]; rfl) (by rw [started_fields]) (fun e => ?_)
    fun e hi => if_neg (by rw [hi]; exact EntryState.noConfusion)
  split
  · next hs => rw [hs]; exact ⟨rfl, rfl⟩
  · exact ⟨rfl, rfl⟩

/-- Something is left to wait for after the start exactly where it was before (R167). -/
theorem started_drainOver {m : Mgmt} : (s.started m).drainOver ↔ s.drainOver := by
  rw [started_fields]
  refine and_congr ?_ Iff.rfl
  unfold abortQueued
  constructor
  · intro h e he
    have hmapped := h _ (List.mem_map_of_mem he)
    split at hmapped
    · cases hmapped
    · exact hmapped
  · intro h e he
    obtain ⟨x, hx, rfl⟩ := List.mem_map.mp he
    rw [h x hx, if_neg EntryState.noConfusion]
    exact h x hx

/-- A fill does not end a drain (R167). -/
theorem fill_drainWaits {e : Ev} (h : ¬ e.st.drainOver) : e.fill.st.drainWaits := by
  intro _ ho
  rcases fill_cases e with hf | ⟨q, m, -, -, hf⟩ | ⟨f, -, -, hl, hf⟩ <;> rw [hf] at ho
  · exact h ho
  · obtain ⟨a, ha⟩ := memoryAnswer_stage e q m
    rw [ho.2.2] at ha
    cases ha
  · obtain ⟨a, ha⟩ := localAnswer_stage hl
    exact Option.some_ne_none a (ha.symm.trans ho.2.2)

/-- A start with something left to wait for ends as other events do. -/
theorem closeStart_left (hheld : s.responseHeld) (hleft : ¬ s.drainOver) (m : Mgmt) :
    Ev.closeStart ⟨s.started m, []⟩ = Ev.close ⟨s.started m, []⟩ := by
  have hheld' : (s.started m).responseHeld := started_held hheld _
  apply closeStart_eq_close
  rw [discardResponse_held hheld']
  exact fill_drainWaits fun ho => hleft (started_drainOver.mp ho)

/-- A start with nothing left to wait for leaves the completion to follow (R161, R167). -/
theorem started_begun (hr : s.Ready) (hnothing : s.drainOver) (m : Mgmt) : (s.started m).Begun where
  released := by rw [started_fields]; exact hr.released
  noted :=
    { response := started_held hr.settled.noted.response _
      shortfalls := fun n hs => by
        rw [headShort_of_empty (by rw [started_fields])] at hs
        cases hs
      stall := by
        rw [started_fields]
        unfold State.stallNoted State.stall
        dsimp only
        split
        · rfl
        · exact (if_pos rfl).symm
      presented := by
        rw [started_fields]
        exact presented_of_empty rfl }
  mode := by rw [started_fields]
  ended := started_drainOver.mpr hnothing

theorem closeStart_begun (h : u.Begun) : Ev.closeStart ⟨u, []⟩ = u :=
  closeStart_noted h.noted h.mode h.ended.answersWait

/-- What the two rows of a start answer, where something is left to wait for and where nothing is. -/
theorem askReset_starts {f : Ev → Ev} {m : Mgmt} (hr : s.Ready) (hm : s.dev.mode ≠ .draining)
    (hf : f ⟨s, []⟩ = ⟨s.started m, []⟩) :
    (¬ s.drainOver → ∃ t, askReset s f = .next t ∧ Ends (s.started m) [] t) ∧
    (s.drainOver → askReset s f = .next (s.started m) ∧ (s.started m).Begun) := by
  rw [askReset_start hr.released hm, hf]
  refine ⟨fun hleft => ⟨_, rfl, ?_⟩, fun hnothing => ?_⟩
  · have hheld : (s.started m).responseHeld := started_held hr.settled.noted.response _
    rw [closeStart_left hr.settled.noted.response hleft]
    exact close_ends hheld
  · have hbegun := started_begun hr hnothing m
    rw [closeStart_begun hbegun]
    exact ⟨rfl, hbegun⟩

/-- WRSTN_FALL outside DRAINING is the start (R161). -/
theorem wrstnFall_start {e : Ev} (h : e.st.dev.mode ≠ .draining) : e.wrstnFall = e.map State.warmStart := if_neg h

theorem wrstnFall_draining {e : Ev} (h : e.st.dev.mode = .draining) : e.wrstnFall = e := if_pos h

/-- The word of WARM_RESET outside DRAINING is the start, accepted (R161, R187). -/
theorem warmResetWord_start (hr : s.TakesWord commandAddr) (hm : s.dev.mode ≠ .draining) :
    Ev.word ⟨s, []⟩ commandAddr Ev.warmReset = ⟨s.started (s.mgmt.resulted .accepted), []⟩ := by
  have hstart : Ev.warmReset ⟨s, []⟩ = (Ev.result ⟨s, []⟩ .accepted).map State.warmStart := if_neg hm
  rw [word_acts (e := ⟨s, []⟩) hr.stands, hstart]
  rw [started_fields]
  unfold Ev.map
  dsimp only
  rw [warmStart_fields]
  rfl

/-- In DRAINING it is refused BUSY (R161). -/
theorem warmResetWord_refused (hf : s.mgmt.frame = .writing commandAddr) (hm : s.dev.mode = .draining) :
    Ev.word ⟨s, []⟩ commandAddr Ev.warmReset = ⟨{ s with mgmt := s.mgmt.resulted .refusedBusy }, []⟩ := by
  have hrefused : Ev.warmReset ⟨s, []⟩ = Ev.result ⟨s, []⟩ .refusedBusy := if_pos hm
  rw [word_acts (e := ⟨s, []⟩) hf, hrefused]
  rfl

theorem exec_warmReset (s : State) : exec .warmReset s = askReset s (fun e => e.word commandAddr Ev.warmReset) := rfl

/-- A start that leaves something to wait for leaves a settled state (R32, R97, R167). -/
theorem closeStart_settled_left (hr : s.Ready) (hmatch : s.StoreMatches) (hleft : ¬ s.drainOver) (m : Mgmt) :
    (Ev.closeStart ⟨s.started m, []⟩).Settled := by
  have hcontrol := closeStart_control ⟨s.started m, []⟩
  have hmode : (Ev.closeStart ⟨s.started m, []⟩).dev.mode = .draining := by
    rw [hcontrol.dev, started_fields]
  rw [closeStart_left hr.settled.noted.response hleft] at hmode ⊢
  refine ⟨?_, offerWaits_of_draining hmode, close_drainWaits _, close_answersWait _⟩
  have hheld : (s.started m).responseHeld := started_held hr.settled.noted.response _
  have hdrain : (Ev.fill ⟨s.started m, []⟩).st.drainWaits :=
    fill_drainWaits fun ho => hleft (started_drainOver.mp ho)
  have hmode' : (Ev.fill ⟨s.started m, []⟩).st.dev.mode = .draining := by
    rw [(fill_dev _).1, started_fields]
  unfold Ev.close Ev.brings
  rw [discardResponse_held hheld, complete_of_waits hdrain, takeIfAble_of_waits (offerWaits_of_draining hmode'), fill_fill]
  apply judge_noted_of_held
  rcases fill_cases ⟨s.started m, []⟩ with hf | ⟨q, x, -, -, hf⟩ | ⟨f, -, -, hl, hf⟩ <;> rw [hf]
  · exact hheld
  · obtain ⟨a, -, ⟨-, hans⟩ | ⟨n, jobs, -, hans, -⟩⟩ := memoryAnswer_cases ⟨s.started m, []⟩ q x <;>
      rw [hans] <;> exact fun p hp => Option.noConfusion rfl (heq_of_eq hp)
  · obtain ⟨S, hfront, -, status, ghost, hs⟩ := localChoice_some hl
    have hmatch' : (s.started m).StoreMatches :=
      ⟨hmatch.warmStarted.correspond, hmatch.warmStarted.rising, hmatch.warmStarted.drawn⟩
    exact hheld.localAnswered hmatch' (answerFront_mem hfront) hs

/-! ### After a start with nothing left to wait for (R161, R167) -/

theorem Begun.close_ends (h : u.Begun) : Ends u.warmComplete [] (Ev.close ⟨u, []⟩) :=
  (ends_drained h.mode h.ended).mp (Machine.close_ends h.noted.response)

theorem Begun.exec_completion (h : u.Begun) : exec .warmResetCompletion u = .next (Ev.close ⟨u, []⟩) :=
  (exec_warmResetCompletion u).trans (event_open h.released _)

/-- An edge on WRSTn finds DRAINING, is ignored, and the completion follows (log 31). -/
theorem Begun.exec_wrstnFall (h : u.Begun) : exec .wrstnFall u = exec .warmResetCompletion u := by
  rw [Begun.exec_completion h, Machine.exec_wrstnFall, askReset_draining h.released h.mode,
    wrstnFall_draining (e := ⟨u, []⟩) h.mode]

/-- The rows that are an event which comes after a completion that is to follow. -/
theorem exec_happens {c : Instr} (hask : ¬ AsksReset c) (hcompletion : c ≠ .warmResetCompletion) (hcold : c ≠ .coldReset)
    (hrelease : c ≠ .coldResetRelease) : ∃ f, ∀ s : State, s.inReset = false → exec c s = happen s f := by
  cases ht : wordTarget c with
  | some a =>
    rcases exec_wordTarget ht with ⟨f, hc⟩ | ⟨d, f, hd, hc⟩
    · exact ⟨_, fun s _ => hc s⟩
    · exact ⟨_, fun s _ => (hc s).trans (if_neg fun h => hask (hd h))⟩
  | none =>
    cases c with
    | requestOffer r => exact ⟨_, fun s h => exec_requestOffer_open h r⟩
    | responseOffer r => exact ⟨_, fun s h => exec_responseOffer_open h r⟩
    | offerWithdrawn ch => exact ⟨_, fun s h => exec_offerWithdrawn_open h ch⟩
    | spiFrameStart => exact ⟨_, fun s h => (exec_spiFrameStart s).trans (if_neg (by rw [h]; exact Bool.false_ne_true))⟩
    | spiFrameEnd cut => exact ⟨_, fun s h => (exec_spiFrameEnd cut s).trans (if_neg (by rw [h]; exact Bool.false_ne_true))⟩
    | coldReset => exact absurd rfl hcold
    | coldResetRelease => exact absurd rfl hrelease
    | warmResetCompletion => exact absurd rfl hcompletion
    | wrstnFall => exact absurd (.inl rfl) hask
    | requestTake => exact ⟨_, fun s _ => exec_requestTake s⟩
    | grant => exact ⟨_, fun s _ => exec_grant s⟩
    | issueTake => exact ⟨_, fun s _ => exec_issueTake s⟩
    | answerFill => exact ⟨_, fun s _ => exec_answerFill s⟩
    | answerTake => exact ⟨_, fun s _ => exec_answerTake s⟩
    | tapTick k => exact ⟨_, fun s _ => exec_tapTick k s⟩
    | cycleEdge pin => exact ⟨_, fun s _ => exec_cycleEdge pin s⟩
    | frameStart t cause => exact ⟨_, fun s _ => exec_frameStart t cause s⟩
    | frameStartDelivery t n => exact ⟨_, fun s _ => exec_frameStartDelivery t n s⟩
    | cascadeTick t => exact ⟨_, fun s _ => exec_cascadeTick t s⟩
    | ageTick => exact ⟨_, fun s _ => exec_ageTick s⟩
    | forceExpiry d => exact ⟨_, fun s _ => exec_forceExpiry d s⟩
    | dropExpiry d => exact ⟨_, fun s _ => exec_dropExpiry d s⟩
    | presentation => exact ⟨_, fun s _ => exec_presentation s⟩
    | evackRise => exact ⟨_, fun s _ => exec_evackRise s⟩
    | evackFall => exact ⟨_, fun s _ => exec_evackFall s⟩
    | handshakeTimeout => exact ⟨_, fun s _ => exec_handshakeTimeout s⟩
    | drainTimeout => exact ⟨_, fun s _ => exec_drainTimeout s⟩
    | unknownOperation hd => exact ⟨_, fun s _ => exec_unknownOperation hd s⟩
    | unmappedRead a => exact ⟨_, fun s _ => exec_unmappedRead a s⟩
    | _ => cases ht

/-- Any other event comes after the completion (log 31). -/
theorem Begun.exec_other {c : Instr} (h : u.Begun) (hask : ¬ AsksReset c) (hcompletion : c ≠ .warmResetCompletion)
    (hcold : c ≠ .coldReset) (hrelease : c ≠ .coldResetRelease) : exec c u = exec c (Ev.close ⟨u, []⟩) := by
  obtain ⟨f, hf⟩ := exec_happens hask hcompletion hcold hrelease
  rw [hf u h.released, hf _ h.close.1]
  exact happen_begun h f

/-! ### A take that ends the drain (R167) -/

/-- UP's take of the last answer. -/
theorem exec_answerTake_completes (hr : s.Ready) (hm : s.dev.mode = .draining)
    (ho : State.drainOver { s with answer := { s.answer with stage := none } }) :
    ∃ t, exec .answerTake s = .next t ∧ Ends s.warmComplete [] t := by
  obtain ⟨t, ht, hends⟩ := event_ends (u := s.setAnswer { s.answer with stage := none }) (jobs := []) hr.released
    hr.settled.drain (f := fun e => e.map (fun s => s.setAnswer { s.answer with stage := none })) rfl
    (responseHeld_congr hr.settled.noted.response rfl rfl)
  have hsame : (s.setAnswer { s.answer with stage := none }).warmComplete = s.warmComplete := by
    rw [warmComplete_fields, warmComplete_fields]
    rfl
  rw [← hsame]
  exact ⟨t, ht, (ends_drained (s := s.setAnswer { s.answer with stage := none }) hm ho).mp hends⟩

/-- DOWN's take of the last request. -/
theorem exec_issueTake_completes {q : Issued} (hr : s.Ready) (hm : s.dev.mode = .draining) (hs : s.issue.stage = some q)
    (ho : State.drainOver { s with issue := { s.issue with stage := none } }) :
    ∃ t, exec .issueTake s = .next t ∧
      Ends (State.warmComplete { s with wdb := s.wdb.filter (fun a => q.writeRef ≠ some a.key) }) [] t := by
  have htaken := issueTake_occupied hs
  have hresp : s.issueTake.downResp = s.downResp := by rw [htaken]
  have horder : s.issueTake.order = s.order := by rw [htaken]
  have hdev : s.issueTake.dev = s.dev := by rw [htaken]
  have hover : s.issueTake.drainOver := by rw [htaken]; exact ho
  obtain ⟨t, ht, hends⟩ := event_ends (u := s.issueTake) (jobs := []) hr.released hr.settled.drain
    (f := fun e => e.map State.issueTake) rfl (responseHeld_congr hr.settled.noted.response horder hresp)
  have hsame : s.issueTake.warmComplete =
      State.warmComplete { s with wdb := s.wdb.filter (fun a => q.writeRef ≠ some a.key) } := by
    rw [htaken, warmComplete_fields, warmComplete_fields]
  rw [← hsame]
  exact ⟨t, ht, (ends_drained (hdev ▸ hm) hover).mp hends⟩

/-! ### The rows of a request (R161) -/

theorem wrstnFall_started (hm : s.dev.mode ≠ .draining) : Ev.wrstnFall ⟨s, []⟩ = ⟨s.started s.mgmt, []⟩ := by
  rw [wrstnFall_start (e := ⟨s, []⟩) hm, started_fields]
  unfold Ev.map
  dsimp only
  rw [warmStart_fields]

/-- What a start answers. -/
theorem exec_wrstnFall_start (hr : s.inReset = false) (hm : s.dev.mode ≠ .draining) :
    exec .wrstnFall s = .next (Ev.closeStart ⟨s.started s.mgmt, []⟩) := by
  rw [exec_wrstnFall, askReset_start hr hm, wrstnFall_started hm]

theorem exec_warmReset_start (hr : s.TakesWord commandAddr) (hm : s.dev.mode ≠ .draining) :
    exec .warmReset s = .next (Ev.closeStart ⟨s.started (s.mgmt.resulted .accepted), []⟩) := by
  rw [exec_warmReset, askReset_start hr.ready.released hm, warmResetWord_start hr hm]

theorem exec_wrstnFall_draining (hr : s.inReset = false) (hm : s.dev.mode = .draining) (hs : s.Settled) :
    exec .wrstnFall s = .next s := by
  rw [exec_wrstnFall, askReset_draining hr hm, wrstnFall_draining (e := ⟨s, []⟩) hm, close_settled hs]

theorem exec_warmReset_draining (hr : s.inReset = false) (hm : s.dev.mode = .draining)
    (hf : s.mgmt.frame = .writing commandAddr) :
    exec .warmReset s = .next (Ev.close ⟨{ s with mgmt := s.mgmt.resulted .refusedBusy }, []⟩) := by
  rw [exec_warmReset, askReset_draining hr hm, warmResetWord_refused hf hm]

/-- The state after a start is in DRAINING, out of cold reset, and has the management port as the start left it. -/
theorem started_closed (hr : s.inReset = false) (m : Mgmt) :
    (Ev.closeStart ⟨s.started m, []⟩).dev.mode = .draining ∧ (Ev.closeStart ⟨s.started m, []⟩).inReset = false ∧
      (Ev.closeStart ⟨s.started m, []⟩).mgmt = m := by
  have hcontrol := closeStart_control ⟨s.started m, []⟩
  rw [hcontrol.dev, hcontrol.inReset, hcontrol.mgmt, started_fields]
  exact ⟨rfl, hr, rfl⟩

/-- After a start with nothing left the state is Begun. -/
theorem begun_of_start (hr : s.Ready) (hm : s.dev.mode ≠ .draining) (ho : s.drainOver)
    (hb : exec .wrstnFall s = .next b ∨ (s.TakesWord commandAddr ∧ exec .warmReset s = .next b)) : b.Begun := by
  rcases hb with hb | ⟨hw, hb⟩
  · rw [exec_wrstnFall_start hr.released hm, closeStart_begun (started_begun hr ho _)] at hb
    cases hb
    exact started_begun hr ho _
  · rw [exec_warmReset_start hw hm, closeStart_begun (started_begun hr ho _)] at hb
    cases hb
    exact started_begun hr ho _

end Sys2Proof.Machine

namespace Sys2Proof.Proofs

open Sys2Proof Sys2Proof.Machine

/-- Settles O32. -/
theorem warmResetStarts : Obligations.WarmResetStarts := by
  intro s hr started left starts
  have hwdb : s.wdb.filter s.stageHolds = started.wdb := List.filter_congr fun a _ => by
    unfold State.stageHolds
    cases s.issue.stage with
    | none => rfl
    | some q => exact Bool.beq_eq_decide_eq _ _
  have hstarted : ∀ m, s.started m = { started with mgmt := m } := fun m => by
    rw [started_fields, hwdb]
    rfl
  have hleft : left ↔ ¬ s.drainOver := by
    simp only [left, State.drainOver, not_and_or, not_forall, exists_prop, ne_eq]
  have hstarts : ∀ (c : Instr) (f : Ev → Ev) (m : Mgmt), s.dev.mode ≠ .draining → exec c s = askReset s f →
      f ⟨s, []⟩ = ⟨s.started m, []⟩ → starts c { started with mgmt := m } := fun c f m hm hc hf => by
    obtain ⟨hl, hn⟩ := askReset_starts hr hm hf
    rw [hstarted] at hl hn
    refine ⟨fun h => ?_, fun h => ?_⟩
    · rw [hc]
      exact hl (hleft.mp h)
    · rw [hc]
      exact hn (not_not.mp fun hno => h (hleft.mpr hno))
  refine ⟨fun hm => hstarts _ _ _ hm (exec_wrstnFall s) (wrstnFall_started hm),
    fun hm hw => hstarts _ _ _ hm (exec_warmReset s) (warmResetWord_start hw hm),
    fun hm => exec_wrstnFall_draining hr.released hm hr.settled, fun hm hw => ?_,
    fun hm hw => ⟨fun b hb => ?_, fun b hb => ?_⟩⟩
  · rw [exec_warmReset_draining hr.released hm hw.stands]
    have hsettled : State.Settled { s with mgmt := s.mgmt.resulted .refusedBusy } :=
      hr.settled.other rfl hr.settled.noted.presented
    rw [close_settled hsettled]
  · rw [exec_wrstnFall_start hr.released hm] at hb
    cases hb
    obtain ⟨hmode, hreset, hmgmt⟩ := started_closed hr.released s.mgmt
    refine ⟨hmode, _, exec_warmReset_draining hreset hmode (by rw [hmgmt]; exact hw.stands), ?_⟩
    exact close_results _
  · have hb' := hb
    rw [exec_warmReset_start hw hm] at hb
    cases hb
    obtain ⟨hmode, hreset, hmgmt⟩ := started_closed hr.released (s.mgmt.resulted .accepted)
    refine ⟨hmode, by rw [hmgmt]; rfl, fun hl hmatch => ?_, fun hl => ?_⟩
    · exact exec_wrstnFall_draining hreset hmode (closeStart_settled_left hr hmatch (hleft.mp hl) _)
    · exact Begun.exec_wrstnFall (begun_of_start hr hm (not_not.mp fun hno => hl (hleft.mpr hno)) (.inr ⟨hw, hb'⟩))

/-- Settles O34. -/
theorem warmResetCompletes : Obligations.WarmResetCompletes := by
  intro s left warmed ends
  have hwarmed : ∀ u : State, u.warmComplete = warmed u := warmComplete_fields
  have hnothing : ∀ u : State, u.order = s.order → u.issue.stage = none → u.answer.stage = none → ¬ left → u.drainOver :=
    fun u ho hi ha hl => ⟨fun e he => not_not.mp fun hne => hl ⟨e, ho ▸ he, hne⟩, hi, ha⟩
  refine ⟨fun hb => ⟨?_, fun t c ht hask h1 h2 h3 => ?_, Begun.exec_wrstnFall hb, fun hf => ?_⟩, fun hr => ⟨?_, ?_, ?_, ?_⟩⟩
  · exact ⟨_, Begun.exec_completion hb, hwarmed s ▸ Begun.close_ends hb⟩
  · rw [Begun.exec_completion hb] at ht
    cases ht
    exact Begun.exec_other hb hask h1 h2 h3
  · refine ⟨_, exec_warmReset_draining hb.released hb.mode hf, ?_⟩
    rw [← hwarmed]
    exact (ends_drained (s := { s with mgmt := s.mgmt.resulted .refusedBusy }) hb.mode hb.ended).mp
      (close_ends hb.noted.response)
  · exact (exec_warmResetCompletion s).trans ((event_open hr.released _).trans (congrArg _ (close_settled hr.settled)))
  · intro hm hl hs
    obtain ⟨t, ht, hends⟩ := exec_answerTake_completes hr hm (hnothing { s with answer := { s.answer with stage := none } } rfl hs rfl hl)
    rw [hwarmed] at hends
    exact ⟨t, ht, hends⟩
  · intro q hm hl hs ha
    obtain ⟨t, ht, hends⟩ := exec_issueTake_completes hr hm hs (hnothing { s with issue := { s.issue with stage := none } } rfl rfl ha hl)
    rw [hwarmed] at hends
    exact ⟨t, ht, hends⟩
  · intro b hm hl hi ha hb
    have hbegun := begun_of_start hr hm (hnothing s rfl hi ha hl) hb
    have hends := Begun.close_ends hbegun
    exact ⟨_, Begun.exec_completion hbegun, hwarmed b ▸ hends, ends_warm hbegun.ended hends⟩

end Sys2Proof.Proofs
end

section
/-! What one event does at the timers (08): a hit at each, one after the other, is the hits at all of them at once. -/

namespace Sys2Proof.Machine

variable {s : State} {e : Ev} {t : TimerId}

/-! ### A hit at one timer -/

/-- A hit at timer t and none elsewhere. -/
def oneHit (t : TimerId) (h : TimerHit) (u : TimerId) : TimerHit := if u = t then h else .none

theorem oneHit_self (t : TimerId) (h : TimerHit) : oneHit t h t = h := if_pos rfl

theorem oneHit_other {t u : TimerId} (h : TimerHit) (hu : u ≠ t) : oneHit t h u = .none := if_neg hu

/-- The hits at the timers below timer number k. -/
def hitBelow (k : Nat) (hit : TimerId → TimerHit) (t : TimerId) : TimerHit := if t.val < k then hit t else .none

/-- An event that goes on with these hits at the timers. -/
def Ev.hits (e : Ev) (hit : TimerId → TimerHit) : Ev := ⟨e.st.timersHit hit, e.jobs ++ e.st.hitNotices hit⟩

/-- The deliveries of a hit at timer t (R127). -/
def hitDeliveries (t : TimerId) : TimerHit → List Delivery
  | .frame _ => (List.finRange 16).map (fun n => (t, n))
  | .none => []
  | .count => []

/-- The occurrences of a hit at a timer (R124, R127). -/
def Timer.hitNotices (x : Timer) (t : TimerId) : TimerHit → List NoticeJob
  | .frame cause =>
    .occur { source := timerSource t, cause := .wrap } ::
      (if cause = .tick ∧ x.sync ≠ .free then [.occur { source := timerSource t, cause := .syncMissed }] else [])
  | .none => []
  | .count => []

/-- The timers of a state after hits. -/
theorem timersHit_fields (s : State) (hit : TimerId → TimerHit) :
    s.timersHit hit =
      { s with
        timers := mapAll s.timers (fun t x => x.hit (hit t))
        deliveries := s.deliveries ++ (List.finRange 4).flatMap (fun t => hitDeliveries t (hit t))
        cascades := mapAll s.cascades (fun t k => if s.cascadeMade hit t then k + 1 else k) } := by
  have hd : (s.timersHit hit).deliveries = s.deliveries ++ (List.finRange 4).flatMap (fun t => hitDeliveries t (hit t)) := by
    unfold State.timersHit
    refine congrArg (fun f => s.deliveries ++ List.flatMap f (List.finRange 4)) (funext fun t => ?_)
    cases hit t <;> rfl
  exact congrArg (fun d =>
    ({ s with
      timers := mapAll s.timers (fun t x => x.hit (hit t)), deliveries := d
      cascades := mapAll s.cascades (fun t k => if s.cascadeMade hit t then k + 1 else k) } : State)) hd

theorem hitNotices_eq (s : State) (hit : TimerId → TimerHit) :
    s.hitNotices hit = (List.finRange 4).flatMap (fun t => (s.timer t).hitNotices t (hit t)) := by
  unfold State.hitNotices
  refine congrArg (fun f => List.flatMap f (List.finRange 4)) (funext fun t => ?_)
  cases hit t <;> rfl

theorem timersHit_timer (s : State) (hit : TimerId → TimerHit) (t : TimerId) :
    (s.timersHit hit).timer t = (s.timer t).hit (hit t) := cell_mapAll _ _ t

/-- No hit changes a clock source or a sync mode. -/
theorem hit_config (x : Timer) (h : TimerHit) : (x.hit h).clock = x.clock ∧ (x.hit h).sync = x.sync := by
  cases h <;> exact ⟨rfl, rfl⟩

/-! ### Hits one after the other -/

/-- In a list over the timers, the part of timer t follows that of the timers below it. -/
theorem flatMap_hitBelow {α : Type} (g : TimerId → TimerHit → List α) (hg : ∀ t, g t .none = []) (hit : TimerId → TimerHit)
    (t : TimerId) :
    (List.finRange 4).flatMap (fun u => g u (hitBelow (t.val + 1) hit u)) =
      (List.finRange 4).flatMap (fun u => g u (hitBelow t.val hit u)) ++
        (List.finRange 4).flatMap (fun u => g u (oneHit t (hit t) u)) := by
  have hall : List.finRange 4 = [0, 1, 2, 3] := by decide
  rw [hall]
  simp only [List.flatMap_cons, List.flatMap_nil, List.append_nil]
  fin_cases t <;> simp [hitBelow, oneHit, hg]

/-- A timer below t or t itself is hit exactly once. -/
theorem hitBelow_succ (x : Timer) (hit : TimerId → TimerHit) (t u : TimerId) :
    (x.hit (hitBelow t.val hit u)).hit (oneHit t (hit t) u) = x.hit (hitBelow (t.val + 1) hit u) := by
  unfold hitBelow oneHit
  by_cases hu : u = t
  · subst hu
    rw [if_neg (Nat.lt_irrefl _), if_pos rfl, if_pos (Nat.lt_succ_self _)]
    rfl
  · have hne : u.val ≠ t.val := fun h => hu (Fin.ext h)
    rw [if_neg hu]
    by_cases hlt : u.val < t.val
    · rw [if_pos hlt, if_pos (by omega)]
      rfl
    · rw [if_neg hlt, if_neg (by omega)]
      rfl

/-- A cascade tick is made by the hits below t, by the one at t, or by neither. -/
theorem cascadeMade_succ (s : State) (hit : TimerId → TimerHit) (t u : TimerId) (k : Nat) :
    (if (s.timersHit (hitBelow t.val hit)).cascadeMade (oneHit t (hit t)) u then
        (if s.cascadeMade (hitBelow t.val hit) u then k + 1 else k) + 1
      else if s.cascadeMade (hitBelow t.val hit) u then k + 1 else k) =
      if s.cascadeMade (hitBelow (t.val + 1) hit) u then k + 1 else k := by
  have hclock : ((s.timersHit (hitBelow t.val hit)).timer u).clock = (s.timer u).clock := by
    rw [timersHit_timer, (hit_config _ _).1]
  unfold State.cascadeMade
  cases hb : below u with
  | none => rfl
  | some w =>
    dsimp only
    rw [hclock]
    unfold hitBelow oneHit
    by_cases hw : w = t
    · simp [hw]
    · have hne : w.val ≠ t.val := fun h => hw (Fin.ext h)
      by_cases hlt : w.val < t.val
      · simp [hw, hlt, Nat.lt_succ_of_lt hlt]
      · have hnlt : ¬ w.val < t.val + 1 := by omega
        simp [hw, hlt, hnlt]

/-- The hit at timer t after those below it (R127 to R129). -/
theorem timersHit_succ (s : State) (hit : TimerId → TimerHit) (t : TimerId) :
    (s.timersHit (hitBelow t.val hit)).timersHit (oneHit t (hit t)) = s.timersHit (hitBelow (t.val + 1) hit) := by
  have htimers : mapAll (s.timersHit (hitBelow t.val hit)).timers (fun u x => x.hit (oneHit t (hit t) u)) =
      mapAll s.timers (fun u x => x.hit (hitBelow (t.val + 1) hit u)) := by
    refine table_ext fun u => ?_
    rw [cell_mapAll, cell_mapAll]
    exact (congrArg (fun x => Timer.hit x _) (timersHit_timer s _ u)).trans (hitBelow_succ _ hit t u)
  have hcascades : mapAll (s.timersHit (hitBelow t.val hit)).cascades (fun u k =>
        if (s.timersHit (hitBelow t.val hit)).cascadeMade (oneHit t (hit t)) u then k + 1 else k) =
      mapAll s.cascades (fun u k => if s.cascadeMade (hitBelow (t.val + 1) hit) u then k + 1 else k) := by
    refine table_ext fun u => ?_
    rw [cell_mapAll, cell_mapAll]
    have hcell : cell (s.timersHit (hitBelow t.val hit)).cascades u =
        if s.cascadeMade (hitBelow t.val hit) u then cell s.cascades u + 1 else cell s.cascades u := cell_mapAll _ _ u
    rw [hcell]
    exact cascadeMade_succ s hit t u _
  have hdeliveries := flatMap_hitBelow hitDeliveries (fun _ => rfl) hit t
  rw [timersHit_fields (s.timersHit (hitBelow t.val hit)), htimers, hcascades, timersHit_fields s (hitBelow (t.val + 1) hit),
    hdeliveries, ← List.append_assoc, timersHit_fields s (hitBelow t.val hit)]

/-- The occurrences of the hit at timer t after those below it. -/
theorem hitNotices_succ (s : State) (hit : TimerId → TimerHit) (t : TimerId) :
    s.hitNotices (hitBelow t.val hit) ++ (s.timersHit (hitBelow t.val hit)).hitNotices (oneHit t (hit t)) =
      s.hitNotices (hitBelow (t.val + 1) hit) := by
  have hsame : ∀ u : TimerId, ((s.timersHit (hitBelow t.val hit)).timer u).hitNotices u (oneHit t (hit t) u) =
      (s.timer u).hitNotices u (oneHit t (hit t) u) := fun u => by
    unfold Timer.hitNotices
    rw [timersHit_timer, (hit_config _ _).2]
  rw [hitNotices_eq, hitNotices_eq, hitNotices_eq, funext hsame]
  exact (flatMap_hitBelow (fun u => (s.timer u).hitNotices u) (fun _ => rfl) hit t).symm

theorem hits_succ (s : State) (jobs : List NoticeJob) (hit : TimerId → TimerHit) (t : TimerId) :
    (Ev.hits ⟨s, jobs⟩ (hitBelow t.val hit)).hits (oneHit t (hit t)) = Ev.hits ⟨s, jobs⟩ (hitBelow (t.val + 1) hit) := by
  unfold Ev.hits
  dsimp only
  rw [timersHit_succ, List.append_assoc, hitNotices_succ]

theorem timersHit_none (s : State) : s.timersHit (fun _ => .none) = s := by
  have htimers : mapAll s.timers (fun _ x => x.hit .none) = s.timers := table_ext fun u => cell_mapAll _ _ u
  have hcascades : mapAll s.cascades (fun t k => if s.cascadeMade (fun _ => .none) t then k + 1 else k) = s.cascades := by
    refine table_ext fun u => ?_
    rw [cell_mapAll, if_neg]
    unfold State.cascadeMade
    cases below u with
    | none => exact Bool.false_ne_true
    | some w => exact fun h => Bool.false_ne_true ((Bool.and_false _).symm.trans h)
  have hdeliveries : (List.finRange 4).flatMap (fun t => hitDeliveries t .none) = [] := rfl
  rw [timersHit_fields, htimers, hcascades, hdeliveries, List.append_nil]

theorem hits_none (e : Ev) : e.hits (fun _ => .none) = e := by
  unfold Ev.hits
  have hjobs : e.st.hitNotices (fun _ => .none) = [] := rfl
  rw [timersHit_none, hjobs, List.append_nil]

theorem hitBelow_zero (hit : TimerId → TimerHit) : hitBelow 0 hit = fun _ => .none :=
  funext fun _ => if_neg (Nat.not_lt_zero _)

theorem hitBelow_four (hit : TimerId → TimerHit) : hitBelow 4 hit = hit := funext fun t => if_pos t.isLt

theorem hitBelow_timer (s : State) (hit : TimerId → TimerHit) (t : TimerId) :
    (s.timersHit (hitBelow t.val hit)).timer t = s.timer t := by
  rw [timersHit_timer]
  unfold hitBelow
  rw [if_neg (Nat.lt_irrefl _)]
  rfl

/-- A part of an event at each timer in turn, each of them a hit there, is the hits at all of them at once. What the part
at timer t marks of the ticks made goes along with it. -/
theorem foldl_hits {f : Ev → TimerId → Ev} {hit : TimerId → TimerHit} {v : Nat → Vector Bool 4} {s : State}
    (jobs : List NoticeJob) (hv : v 0 = s.timerTicks)
    (hf : ∀ (t : TimerId) (jobs : List NoticeJob),
      f ⟨(s.timersHit (hitBelow t.val hit)).setTimerTicks (v t.val), jobs⟩ t =
        Ev.hits ⟨(s.timersHit (hitBelow t.val hit)).setTimerTicks (v (t.val + 1)), jobs⟩ (oneHit t (hit t))) :
    (List.finRange 4).foldl f ⟨s, jobs⟩ = ⟨(s.timersHit hit).setTimerTicks (v 4), jobs ++ s.hitNotices hit⟩ := by
  have hstep : ∀ t : TimerId,
      f ⟨(s.timersHit (hitBelow t.val hit)).setTimerTicks (v t.val), jobs ++ s.hitNotices (hitBelow t.val hit)⟩ t =
        ⟨(s.timersHit (hitBelow (t.val + 1) hit)).setTimerTicks (v (t.val + 1)),
          jobs ++ s.hitNotices (hitBelow (t.val + 1) hit)⟩ := fun t => by
    rw [hf, ← timersHit_succ s hit t, ← hitNotices_succ s hit t, ← List.append_assoc]
    rfl
  have hstart : (⟨s, jobs⟩ : Ev) =
      ⟨(s.timersHit (hitBelow 0 hit)).setTimerTicks (v 0), jobs ++ s.hitNotices (hitBelow 0 hit)⟩ := by
    have hjobs : s.hitNotices (fun _ => .none) = [] := rfl
    rw [hitBelow_zero, timersHit_none, hjobs, List.append_nil, hv]
    rfl
  have hall : List.finRange 4 = [0, 1, 2, 3] := by decide
  rw [hstart, hall, List.foldl_cons, List.foldl_cons, List.foldl_cons, List.foldl_cons, List.foldl_nil]
  have h0 := hstep 0
  have h1 := hstep 1
  have h2 := hstep 2
  have h3 := hstep 3
  rw [show ((0 : TimerId).val) = 0 from rfl] at h0
  rw [show ((1 : TimerId).val) = 1 from rfl] at h1
  rw [show ((2 : TimerId).val) = 2 from rfl] at h2
  rw [show ((3 : TimerId).val) = 3 from rfl] at h3
  rw [h0, h1, h2, h3, hitBelow_four]

end Sys2Proof.Machine
end

section
/-! What a frame start, a tick and the edges do at one timer, as a hit there (08). -/

namespace Sys2Proof.Machine

variable {s : State} {e : Ev} {t : TimerId}

/-! ### The cascade tick of a frame start -/

theorem below_eq_some {t u : TimerId} : below u = some t ↔ u.val = t.val + 1 := by
  unfold below
  split
  next h =>
    rw [Option.some.injEq, Fin.ext_iff]
    dsimp only
    omega
  next h => exact ⟨fun hn => (by cases hn), fun hu => absurd hu (by omega)⟩

theorem cascadeUser_eq_some {u : TimerId} :
    s.cascadeUser t = some u ↔ u.val = t.val + 1 ∧ (s.timer u).clock = .cascade := by
  unfold State.cascadeUser
  split
  next h =>
    by_cases hu : u = ⟨t.val + 1, h⟩
    · subst hu
      dsimp only
      split
      next hc => exact ⟨fun _ => ⟨rfl, hc⟩, fun _ => rfl⟩
      next hc => exact ⟨fun hn => (by cases hn), fun hn => absurd hn.2 hc⟩
    · refine ⟨fun hn => ?_, fun hn => absurd (Fin.ext hn.1) hu⟩
      dsimp only at hn
      split at hn
      · exact absurd (Option.some.inj hn).symm hu
      · cases hn
  next h => exact ⟨fun hn => (by cases hn), fun hn => absurd hn.1 (by omega)⟩

/-- A frame start of timer t makes a cascade tick for its cascade user, where its cause makes one (R127, R129). -/
theorem cascadeMade_oneHit (s : State) (t u : TimerId) (cause : FrameCause) :
    s.cascadeMade (oneHit t (.frame cause)) u = true ↔ cause ≠ .restart ∧ s.cascadeUser t = some u := by
  have hcause : (TimerHit.frame cause == .frame .tick || TimerHit.frame cause == .frame .syncEdge) = true ↔
      cause ≠ .restart := by cases cause <;> decide
  rw [cascadeUser_eq_some]
  unfold State.cascadeMade
  cases hb : below u with
  | none =>
    exact ⟨fun h => absurd h Bool.false_ne_true, fun h => by rw [below_eq_some.mpr h.2.1] at hb; cases hb⟩
  | some w =>
    dsimp only
    have hw := below_eq_some.mp hb
    by_cases hwt : w = t
    · subst hwt
      rw [oneHit_self, Bool.and_eq_true, hcause, beq_iff_eq]
      exact ⟨fun ⟨hc, hr⟩ => ⟨hr, hw, hc⟩, fun ⟨hr, _, hc⟩ => ⟨hc, hr⟩⟩
    · rw [oneHit_other _ hwt]
      refine ⟨fun h => absurd ((Bool.and_eq_true _ _).mp h).2 (by decide), fun h => absurd (Fin.ext ?_) hwt⟩
      have := h.2.1
      omega

theorem makeCascade_eq (s : State) (t : TimerId) (cause : FrameCause) :
    s.makeCascade t cause =
      s.setCascades (mapAll s.cascades (fun u k => if s.cascadeMade (oneHit t (.frame cause)) u then k + 1 else k)) := by
  have hmade := cascadeMade_oneHit s t
  have hsame (h : ∀ u, ¬ s.cascadeMade (oneHit t (.frame cause)) u = true) :
      mapAll s.cascades (fun u k => if s.cascadeMade (oneHit t (.frame cause)) u then k + 1 else k) = s.cascades :=
    table_ext fun u => by rw [cell_mapAll, if_neg (h u)]
  have hone (w : TimerId) (hw : s.cascadeUser t = some w) (hc : cause ≠ .restart) :
      mapAll s.cascades (fun u k => if s.cascadeMade (oneHit t (.frame cause)) u then k + 1 else k) =
        updAt s.cascades w (· + 1) := by
    refine table_ext fun u => ?_
    rw [cell_mapAll, cell_updAt]
    by_cases hu : w = u
    · rw [if_pos hu, if_pos ((hmade u cause).mpr ⟨hc, by rw [← hu, hw]⟩)]
    · rw [if_neg hu, if_neg]
      exact fun h => hu (Option.some.inj (hw.symm.trans ((hmade u cause).mp h).2))
  unfold State.makeCascade
  cases cause with
  | restart =>
    rw [hsame fun u h => ((hmade u .restart).mp h).1 rfl]
    rfl
  | tick =>
    cases hw : s.cascadeUser t with
    | none =>
      rw [hsame fun u h => by rw [hw] at hmade; cases ((hmade u .tick).mp h).2]
      rfl
    | some w => rw [hone w hw (by decide)]
  | syncEdge =>
    cases hw : s.cascadeUser t with
    | none =>
      rw [hsame fun u h => by rw [hw] at hmade; cases ((hmade u .syncEdge).mp h).2]
      rfl
    | some w => rw [hone w hw (by decide)]

/-! ### Hits at one timer -/

/-- The timers of a state with a hit at timer t alone. -/
theorem mapAll_oneHit (s : State) (t : TimerId) (h : TimerHit) :
    mapAll s.timers (fun u x => x.hit (oneHit t h u)) = updAt s.timers t (fun x => x.hit h) := by
  refine table_ext fun u => ?_
  rw [cell_mapAll, cell_updAt]
  by_cases hu : t = u
  · rw [if_pos hu, ← hu, oneHit_self]
  · rw [if_neg hu, oneHit_other _ (Ne.symm hu)]
    rfl

theorem flatMap_oneHit {α : Type} (g : TimerId → TimerHit → List α) (hg : ∀ t, g t .none = []) (t : TimerId)
    (h : TimerHit) : (List.finRange 4).flatMap (fun u => g u (oneHit t h u)) = g t h := by
  have hall : List.finRange 4 = [0, 1, 2, 3] := by decide
  rw [hall]
  simp only [List.flatMap_cons, List.flatMap_nil, List.append_nil]
  fin_cases t <;> simp [oneHit, hg]

/-- A hit at timer t alone. -/
theorem timersHit_oneHit (s : State) (t : TimerId) (h : TimerHit) :
    s.timersHit (oneHit t h) =
      { s with
        timers := updAt s.timers t (fun x => x.hit h)
        deliveries := s.deliveries ++ hitDeliveries t h
        cascades := mapAll s.cascades (fun u k => if s.cascadeMade (oneHit t h) u then k + 1 else k) } := by
  rw [timersHit_fields, mapAll_oneHit, flatMap_oneHit hitDeliveries (fun _ => rfl)]

theorem hitNotices_oneHit (s : State) (t : TimerId) (h : TimerHit) :
    s.hitNotices (oneHit t h) = (s.timer t).hitNotices t h := by
  rw [hitNotices_eq, flatMap_oneHit (fun u => (s.timer u).hitNotices u) (fun _ => rfl)]

/-- A timer's cascade tick asks the clock sources alone. -/
theorem cascadeMade_congr {u : State} (hit : TimerId → TimerHit) (h : ∀ t, (u.timer t).clock = (s.timer t).clock) (t : TimerId) :
    u.cascadeMade hit t = s.cascadeMade hit t := by
  unfold State.cascadeMade
  rw [h]

theorem hit_frame {x : Timer} {cause : FrameCause} (h : cause = .syncEdge → x.state = .running) :
    x.hit (.frame cause) = x.frameStart := by
  have hs : (if cause = .syncEdge then TimerState.running else x.state) = x.state := by
    by_cases hc : cause = .syncEdge
    · rw [if_pos hc, h hc]
    · rw [if_neg hc]
  exact congrArg (fun v => ({ x.frameStart with state := v } : Timer)) hs

/-- The state of a frame start of timer t (R127). -/
theorem frameStart_st (s : State) (t : TimerId) (cause : FrameCause) (h : cause = .syncEdge → (s.timer t).state = .running) :
    (((s.onTimer t Timer.frameStart).setDeliveries
      (s.deliveries ++ (List.finRange 16).map (fun n => (t, n)))).makeCascade t cause) =
      s.timersHit (oneHit t (.frame cause)) := by
  have hclock : ∀ u, ((s.onTimer t Timer.frameStart).timer u).clock = (s.timer u).clock := fun u => by
    rw [State.onTimer_timer]
    split <;> rfl
  have htimers : updAt s.timers t Timer.frameStart = updAt s.timers t (fun x => x.hit (.frame cause)) := by
    refine table_ext fun u => ?_
    rw [cell_updAt, cell_updAt]
    by_cases hu : t = u
    · subst hu
      rw [if_pos rfl, if_pos rfl]
      exact (hit_frame h).symm
    · rw [if_neg hu, if_neg hu]
  have hmade : ∀ u, ((s.onTimer t Timer.frameStart).setDeliveries
      (s.deliveries ++ (List.finRange 16).map (fun n => (t, n)))).cascadeMade (oneHit t (.frame cause)) u =
        s.cascadeMade (oneHit t (.frame cause)) u := cascadeMade_congr _ hclock
  rw [makeCascade_eq, timersHit_oneHit, funext hmade, ← htimers]
  rfl

/-- A frame start of timer t is a hit there. -/
theorem frameStart_hits (e : Ev) (t : TimerId) (cause : FrameCause)
    (h : cause = .syncEdge → (e.st.timer t).state = .running) :
    e.frameStart t cause = e.hits (oneHit t (.frame cause)) := by
  unfold Ev.frameStart Ev.hits
  rw [hitNotices_oneHit, ← frameStart_st e.st t cause h]
  unfold Timer.hitNotices
  by_cases hm : cause = .tick ∧ (e.st.timer t).sync ≠ .free
  · have hb : (cause == .tick && (e.st.timer t).sync != .free) = true := by simp [hm]
    simp [Ev.raise, Ev.map, hm]
  · have hb : (cause == .tick && (e.st.timer t).sync != .free) = false := by
      cases hc : (cause == .tick && (e.st.timer t).sync != .free) with
      | false => rfl
      | true => exact absurd (by simpa using hc) hm
    simp [Ev.raise, Ev.map, hm, hb]

/-- No hit. -/
theorem hits_oneHit_none (e : Ev) (t : TimerId) : e.hits (oneHit t .none) = e := by
  have hnone : oneHit t .none = fun _ => .none := funext fun u => ite_self _
  rw [hnone, hits_none]

/-- One count more. -/
theorem count_hits (e : Ev) (t : TimerId) :
    e.map (fun s => s.onTimer t (fun x => { x with count := x.count + 1 })) = e.hits (oneHit t .count) := by
  have hmade : ∀ u, e.st.cascadeMade (oneHit t .count) u = false := fun u => by
    unfold State.cascadeMade oneHit
    cases below u with
    | none => rfl
    | some w =>
      dsimp only
      split <;> exact Bool.and_false _
  have hcascades : mapAll e.st.cascades (fun u k => if e.st.cascadeMade (oneHit t .count) u then k + 1 else k) =
      e.st.cascades := table_ext fun u => by rw [cell_mapAll, hmade, if_neg Bool.false_ne_true]
  have hjobs : (e.st.timer t).hitNotices t .count = [] := rfl
  have hdeliveries : hitDeliveries t .count = [] := rfl
  unfold Ev.hits
  rw [timersHit_oneHit, hitNotices_oneHit, hcascades, hjobs, hdeliveries, List.append_nil, List.append_nil]
  rfl

/-- A tick at timer t (R124). -/
theorem tick_hits (e : Ev) (t : TimerId) : e.tick t = e.hits (oneHit t (e.st.timer t).tickHit) := by
  unfold Timer.tickHit
  obtain ⟨htick, hs⟩ | ⟨hs, hc, htick⟩ | ⟨hs, hc, htick⟩ := tick_cases e t
  · rw [if_pos hs, hits_oneHit_none, htick]
  · rw [if_neg (not_not_intro hs), if_pos hc, htick, frameStart_hits _ _ _ (fun h => by cases h)]
  · rw [if_neg (not_not_intro hs), if_neg hc, htick, count_hits]

/-- The frame start of a sync edge makes an armed timer running (R125). -/
theorem armed_hits (e : Ev) (t : TimerId) :
    (e.map (fun s => s.onTimer t (fun x => { x with state := .running }))).hits (oneHit t (.frame .syncEdge)) =
      e.hits (oneHit t (.frame .syncEdge)) := by
  have hclock : ∀ u, ((e.st.onTimer t (fun x => { x with state := .running })).timer u).clock = (e.st.timer u).clock :=
    fun u => by
      rw [State.onTimer_timer]
      split <;> rfl
  have htimers : updAt (updAt e.st.timers t (fun x => { x with state := .running })) t (fun x => x.hit (.frame .syncEdge)) =
      updAt e.st.timers t (fun x => x.hit (.frame .syncEdge)) := updAt_updAt _ _ _ _
  have hmade : ∀ u, (e.st.onTimer t (fun x => { x with state := .running })).cascadeMade (oneHit t (.frame .syncEdge)) u =
      e.st.cascadeMade (oneHit t (.frame .syncEdge)) u := cascadeMade_congr _ hclock
  have hstate : (e.st.onTimer t (fun x => { x with state := .running })).timersHit (oneHit t (.frame .syncEdge)) =
      e.st.timersHit (oneHit t (.frame .syncEdge)) := by
    rw [timersHit_oneHit, timersHit_oneHit, funext hmade, ← htimers]
    rfl
  unfold Ev.hits
  rw [hitNotices_oneHit, hitNotices_oneHit]
  exact congrArg (fun v => (⟨v, e.jobs ++ (e.st.timer t).hitNotices t (.frame .syncEdge)⟩ : Ev)) hstate

/-- A sync edge at timer t (R125). -/
theorem syncEdge_hits (e : Ev) (t : TimerId) :
    e.syncEdge t = e.hits (oneHit t (if (e.st.timer t).state = .stopped then .none else .frame .syncEdge)) := by
  obtain ⟨hedge, hs⟩ | ⟨hs, hedge⟩ | ⟨hs, hedge⟩ := syncEdge_cases e t
  · rw [if_pos hs, hits_oneHit_none, hedge]
  · have hrunning : ((e.st.onTimer t (fun x => { x with state := .running })).timer t).state = .running := by
      rw [State.onTimer_timer, if_pos rfl]
    rw [if_neg (fun h => (by rw [hs] at h; cases h)), hedge, frameStart_hits _ _ _ (fun _ => hrunning), armed_hits]
  · rw [if_neg (fun h => (by rw [hs] at h; cases h)), hedge, frameStart_hits _ _ _ (fun _ => hs)]

/-- An edge at its sync pin, and only that, is a sync edge; at its clock source it is a tick (R122). -/
theorem edgeHit_eq (x : Timer) (pin : CyclePin) :
    x.edgeHit pin =
      if x.syncsOn pin then (if x.state = .stopped then .none else .frame .syncEdge)
      else if x.clockedBy pin then x.tickHit else .none := by
  unfold Timer.edgeHit Timer.syncsOn Timer.clockedBy
  cases pin <;> cases x.sync <;> simp

/-- A rising edge of a cycle input at timer t (R122). -/
theorem pinEdge_hits (e : Ev) (pin : CyclePin) (t : TimerId) :
    e.pinEdge pin t = e.hits (oneHit t ((e.st.timer t).edgeHit pin)) := by
  rw [edgeHit_eq]
  unfold Ev.pinEdge
  by_cases hs : (e.st.timer t).syncsOn pin = true
  · rw [if_pos hs, if_pos hs, syncEdge_hits]
  · rw [if_neg hs, if_neg hs]
    by_cases hc : (e.st.timer t).clockedBy pin = true
    · rw [if_pos hc, if_pos hc, tick_hits]
    · rw [if_neg hc, if_neg hc, hits_oneHit_none]

end Sys2Proof.Machine
end

section
/-! The timer commands, the frame start of one timer and the cascade tick (08). -/

namespace Sys2Proof.Machine

variable {s : State} {e : Ev} {t : TimerId}

/-- A part of an event at each timer in turn, each of them the hit that the timer's own record calls for. -/
theorem foldl_timers {f : Ev → TimerId → Ev} (h : TimerId → Timer → TimerHit)
    (hf : ∀ e t, f e t = e.hits (oneHit t (h t (e.st.timer t)))) (s : State) (jobs : List NoticeJob) :
    (List.finRange 4).foldl f ⟨s, jobs⟩ = Ev.hits ⟨s, jobs⟩ (fun t => h t (s.timer t)) := by
  refine foldl_hits (v := fun _ => s.timerTicks) jobs rfl fun t jobs => ?_
  have hkeep : (s.timersHit (hitBelow t.val (fun t => h t (s.timer t)))).setTimerTicks s.timerTicks =
      s.timersHit (hitBelow t.val (fun t => h t (s.timer t))) := rfl
  rw [hkeep, hf]
  exact congrArg (fun x => Ev.hits ⟨_, jobs⟩ (oneHit t (h t x))) (hitBelow_timer s (fun t => h t (s.timer t)) t)

/-! ### The timer commands (R131, R132) -/

theorem start_eq (x : Timer) :
    x.start =
      { x with state := if x.state = .stopped then (if x.sync = .free then .running else .armed) else x.state } := by
  obtain ⟨state, count, frameLength, pendingLength, pendingValid, clock, sync⟩ := x
  cases state <;> rfl

/-- RESTART at the selected timers is a hit at them (R132). -/
theorem restart_hits (s : State) (jobs : List NoticeJob) (mask : TimerMask) :
    Ev.restart ⟨s, jobs⟩ mask =
      Ev.hits ⟨s, jobs⟩ (fun t => if mask.getLsbD t.val = true then .frame .restart else .none) := by
  unfold Ev.restart selectedTimers
  rw [List.foldl_filter]
  refine foldl_timers (fun t _ => if mask.getLsbD t.val = true then .frame .restart else .none) (fun e t => ?_) s jobs
  split
  · exact frameStart_hits e t .restart (fun h => by cases h)
  · exact (hits_oneHit_none e t).symm

/-- START at every selected timer. -/
theorem onTimers_start (s : State) (mask : TimerMask) :
    s.onTimers mask Timer.start =
      { s with
        timers := mapAll s.timers (fun i x =>
          if mask.getLsbD i.val = true then
            { x with state := if x.state = .stopped then (if x.sync = .free then .running else .armed) else x.state }
          else x) } := by
  unfold State.onTimers
  rw [funext start_eq]
  rfl

/-- The command's word, with hits at the timers and START after them where the operation has both. -/
theorem timerCommand_ends {c : Command} {f : State → State} {hit : TimerId → TimerHit} (hw : c.wellFormed = true)
    (hne : c ≠ .warmReset) (hr : s.TakesWord commandAddr)
    (hf : Ev.command ⟨s, []⟩ c = ((Ev.hits ⟨s, []⟩ hit).map f).result .accepted)
    (horder : ∀ u, (f u).order = u.order) (hresp : ∀ u, (f u).downResp = u.downResp) :
    ∃ t, exec c.row s = .next t ∧
      Ends { f (s.timersHit hit) with mgmt := (f (s.timersHit hit)).mgmt.resulted .accepted } (s.hitNotices hit) t :=
  commandRow_ends (u := (f (s.timersHit hit)).setMgmt { (f (s.timersHit hit)).mgmt with cmdResult := .accepted }) hw hne hr
    hf (horder _) (hresp _)

/-! ### The frame start of one timer (R127) -/

/-- An event that goes on with hits at the timers and nothing else. -/
theorem hits_ends {f : Ev → Ev} {hit : TimerId → TimerHit} {u : State} (hr : s.Ready)
    (hf : f ⟨s, []⟩ = Ev.hits ⟨u, []⟩ hit) (horder : u.order = s.order) (hresp : u.downResp = s.downResp) :
    ∃ t, happen s f = .next t ∧ Ends (u.timersHit hit) (u.hitNotices hit) t :=
  event_ends (f := f) hr.released hr.settled.drain hf (responseHeld_congr hr.settled.noted.response horder hresp)

theorem frameStartBy_restart (e : Ev) (t : TimerId) : e.frameStartBy t .restart = e.hits (oneHit t (.frame .restart)) :=
  frameStart_hits e t .restart (fun h => by cases h)

theorem frameStartBy_tick (hs : (e.st.timer t).state = .running)
    (hc : (e.st.timer t).count + 1 = (e.st.timer t).frameLength) :
    e.frameStartBy t .tick = e.hits (oneHit t (.frame .tick)) :=
  (if_pos ⟨hs, hc⟩).trans (frameStart_hits e t .tick (fun h => by cases h))

theorem frameStartBy_tick_none
    (h : (e.st.timer t).state ≠ .running ∨ (e.st.timer t).count + 1 ≠ (e.st.timer t).frameLength) :
    e.frameStartBy t .tick = e := if_neg (fun hn => h.elim (fun hs => hs hn.1) (fun hc => hc hn.2))

theorem frameStartBy_edge (hm : (e.st.timer t).sync ≠ .free) (hs : (e.st.timer t).state ≠ .stopped) :
    e.frameStartBy t .syncEdge = e.hits (oneHit t (.frame .syncEdge)) := by
  refine (if_neg hm).trans ((syncEdge_hits e t).trans ?_)
  rw [if_neg hs]

theorem frameStartBy_edge_none (h : (e.st.timer t).sync = .free ∨ (e.st.timer t).state = .stopped) :
    e.frameStartBy t .syncEdge = e := by
  by_cases hm : (e.st.timer t).sync = .free
  · exact if_pos hm
  · refine (if_neg hm).trans ((syncEdge_hits e t).trans ?_)
    rw [if_pos (h.resolve_left hm), hits_oneHit_none]

/-! ### A cascade tick taken (R129) -/

/-- A state from which a cascade tick made for timer t is taken. -/
def State.cascadeTaken (s : State) (t : TimerId) : State := { s with cascades := updAt s.cascades t (· - 1) }

theorem cascadeTick_taken (hk : 0 < cell s.cascades t) (hc : (s.timer t).clock = .cascade) :
    Ev.cascadeTick ⟨s, []⟩ t = Ev.hits ⟨s.cascadeTaken t, []⟩ (oneHit t (s.timer t).tickHit) :=
  (if_pos hk).trans ((if_pos hc).trans (tick_hits ⟨s.cascadeTaken t, []⟩ t))

theorem cascadeTick_lost (hk : 0 < cell s.cascades t) (hc : (s.timer t).clock ≠ .cascade) :
    Ev.cascadeTick ⟨s, []⟩ t = ⟨s.cascadeTaken t, []⟩ := (if_pos hk).trans (if_neg hc)

theorem cascadeTick_absent (hk : cell s.cascades t = 0) : Ev.cascadeTick ⟨s, []⟩ t = ⟨s, []⟩ :=
  if_neg (by dsimp only; omega)

end Sys2Proof.Machine

namespace Sys2Proof.Proofs

open Sys2Proof Sys2Proof.Machine

/-- Settles O47. -/
theorem timerCommands : Obligations.TimerCommands := by
  refine fun s mask hr => ⟨?_, ?_, ?_, ?_⟩
  · have hends := commandRow_accepted (c := .timerCmd mask 1) (f := fun s => s.onTimers mask Timer.start) rfl
      Command.noConfusion hr rfl rfl rfl
    rw [onTimers_start] at hends
    exact hends
  · exact commandRow_accepted (c := .timerCmd mask 2) (f := fun s => s.onTimers mask Timer.stop) rfl
      Command.noConfusion hr rfl rfl rfl
  · exact timerCommand_ends (c := .timerCmd mask 3) (f := id) rfl Command.noConfusion hr
      (congrArg (fun e => Ev.result e .accepted) (restart_hits s [] mask)) (fun _ => rfl) (fun _ => rfl)
  · have hends := timerCommand_ends (c := .timerCmd mask 4) (f := fun s => s.onTimers mask Timer.start) rfl
      Command.noConfusion hr
      (congrArg (fun e => (Ev.map e (fun s => s.onTimers mask Timer.start)).result .accepted) (restart_hits s [] mask))
      (fun _ => rfl) (fun _ => rfl)
    rw [onTimers_start] at hends
    exact hends

/-- Settles O25. -/
theorem frameStartAndCascadeTick : Obligations.FrameStartAndCascadeTick := by
  refine fun s t hr => ⟨?_, fun hs hc => ?_, fun h => ?_, fun hm hs => ?_, fun h => ?_, fun hk hc => ?_, fun hk hc => ?_,
    fun hk => ?_⟩
  · exact hits_ends (f := fun e => e.frameStartBy t .restart) hr (frameStartBy_restart ⟨s, []⟩ t) rfl rfl
  · exact hits_ends (f := fun e => e.frameStartBy t .tick) hr (frameStartBy_tick (e := ⟨s, []⟩) hs hc) rfl rfl
  · exact happen_idle (f := fun e => e.frameStartBy t .tick) hr (frameStartBy_tick_none (e := ⟨s, []⟩) h)
  · exact hits_ends (f := fun e => e.frameStartBy t .syncEdge) hr (frameStartBy_edge (e := ⟨s, []⟩) hm hs) rfl rfl
  · exact happen_idle (f := fun e => e.frameStartBy t .syncEdge) hr (frameStartBy_edge_none (e := ⟨s, []⟩) h)
  · exact hits_ends (f := fun e => e.cascadeTick t) (u := s.cascadeTaken t) hr (cascadeTick_taken hk hc) rfl rfl
  · exact event_settled (f := fun e => e.cascadeTick t) hr.released hr.settled.drain (cascadeTick_lost hk hc)
      (hr.settled.other rfl hr.settled.noted.presented)
  · exact happen_idle (f := fun e => e.cascadeTick t) hr (cascadeTick_absent hk)

end Sys2Proof.Proofs
end

section
/-! The expiries of an event and the age tick at the records (07). -/

namespace Sys2Proof.Machine

variable {s : State} {e : Ev}

/-! ### The marks of the urgency closure (R110) -/

/-- The mark of a record in the urgency closure over a store. -/
def closureMark (seed : StoreRec → Bool) (store : List StoreRec) (r : StoreRec) : Bool :=
  (urgencyClosure seed store).any (fun p => p.1 == r && p.2)

/-- The computed mark of a record is the one beside it. -/
theorem closureMark_of_mem {seed : StoreRec → Bool} {store : List StoreRec}
    (hs : store.Pairwise (fun a b => a.draw < b.draw)) {p : StoreRec × Bool} (hp : p ∈ urgencyClosure seed store) :
    closureMark seed store p.1 = p.2 := by
  rw [Bool.eq_iff_iff]
  unfold closureMark
  rw [List.any_eq_true]
  constructor
  · rintro ⟨q, hq, hmark⟩
    obtain ⟨hfst, hmark⟩ := (Bool.and_eq_true _ _).mp hmark
    have hc := (urgencyClosure_iff hs hq).mp hmark
    rw [beq_iff_eq.mp hfst] at hc
    exact (urgencyClosure_iff hs hp).mpr hc
  · exact fun hmark => ⟨p, hp, by rw [hmark, Bool.and_true, beq_self_eq_true]⟩

theorem closureMark_iff {seed : StoreRec → Bool} {store : List StoreRec}
    (hs : store.Pairwise (fun a b => a.draw < b.draw)) {r : StoreRec} (hr : r ∈ store) :
    closureMark seed store r = true ↔ InClosure store (fun x => seed x = true) r := by
  have hfst : r ∈ (urgencyClosure seed store).map Prod.fst := by rw [urgencyClosure_fst]; exact hr
  obtain ⟨p, hp, rfl⟩ := List.mem_map.mp hfst
  rw [closureMark_of_mem hs hp]
  exact urgencyClosure_iff hs hp

/-- The closure asks its seeds of the records of the store alone. -/
theorem InClosure.seeds {store : List StoreRec} {a b : StoreRec → Prop} (hab : ∀ x ∈ store, a x → b x) {r : StoreRec}
    (h : InClosure store a r) : InClosure store b r := by
  induction h with
  | seed x hx ha => exact .seed x hx (hab x hx ha)
  | ahead x y hx _ hlt hsame ih => exact .ahead x y hx ih hlt hsame

/-- The records that an event's expiries leave, each with its mark. -/
theorem aged_store {seed sel : StoreRec → Bool} {store : List StoreRec}
    (hs : store.Pairwise (fun a b => a.draw < b.draw)) :
    (urgencyClosure seed store).map (StoreRec.agedBy sel) =
      store.map (fun r => StoreRec.agedBy sel (r, closureMark seed store r)) := by
  have hmap : (urgencyClosure seed store).map (StoreRec.agedBy sel) =
      (urgencyClosure seed store).map ((fun r => StoreRec.agedBy sel (r, closureMark seed store r)) ∘ Prod.fst) :=
    List.map_congr_left fun p hp => by rw [Function.comp_apply, closureMark_of_mem hs hp]
  rw [hmap, ← List.map_map, urgencyClosure_fst]

/-! ### An age tick at all records (R107, R109, R113) -/

theorem expiring_all_drop (s : State) (r : StoreRec) : s.expiring (fun _ => true) .drop r = s.drops r := by
  unfold State.expiring State.drops StoreRec.lastTick
  rw [Bool.eq_iff_iff]
  simp

/-- The marks of an age tick. -/
def State.ageMarks (s : State) (r : StoreRec) : Bool :=
  closureMark (s.expiring (fun _ => true) .force) s.keptRecords r

theorem State.StoreMatches.kept_rising (h : s.StoreMatches) : s.keptRecords.Pairwise (fun a b => a.draw < b.draw) :=
  h.store_rising.sublist List.filter_sublist

/-- The records marked at an age tick are the closure of those left at age 1 (R110). -/
theorem ageMarks_iff (h : s.StoreMatches) {r : StoreRec} (hr : r ∈ s.keptRecords) :
    s.ageMarks r = true ↔ InClosure s.keptRecords (fun x => x.age = some 1) r := by
  refine (closureMark_iff h.kept_rising hr).trans ⟨.seeds fun x _ hx => ?_, .seeds fun x hx hage => ?_⟩
  · unfold State.expiring StoreRec.lastTick at hx
    simp only [Bool.and_eq_true, beq_iff_eq, Bool.true_and] at hx
    exact hx.1
  · have hkept := (List.mem_filter.mp hx).2
    have haction : (s.stream x.stream).live.ageAction ≠ .drop := fun hd => by
      unfold State.drops at hkept
      simp [hage, hd] at hkept
    have hforce : (s.stream x.stream).live.ageAction = .force := by
      cases ha : (s.stream x.stream).live.ageAction with
      | force => rfl
      | drop => exact absurd ha haction
    unfold State.expiring StoreRec.lastTick
    simp [hage, hforce]

theorem agedBy_all (r : StoreRec) (b : Bool) :
    StoreRec.agedBy (fun _ => true) (r, b) = { r with age := r.age.map (· - 1), urgent := r.urgent || b } := by
  unfold StoreRec.agedBy StoreRec.age1
  rcases hage : r.age with _ | _ | k <;> simp

/-- An age tick at the records is as State.aged says. -/
theorem ageRecords_all (h : s.StoreMatches) (jobs : List NoticeJob) :
    Ev.ageRecords ⟨s, jobs⟩ (fun _ => true) = ⟨s.aged s.ageMarks, jobs ++ s.agedNotices⟩ := by
  have hdrops : (fun r => s.expiring (fun _ => true) .drop r) = s.drops := funext (expiring_all_drop s)
  have hlast : (fun r : StoreRec => true && r.lastTick) = fun r => decide (r.age = some 1) := funext fun r => by
    unfold StoreRec.lastTick
    rw [Bool.true_and, Bool.beq_eq_decide_eq]
  have hgone : s.goneBy (fun _ => true) = s.store.filter s.drops := congrArg (fun p => s.store.filter p) hdrops
  have hstore : (urgencyClosure (s.expiring (fun _ => true) .force)
      (s.store.filter (fun r => !s.expiring (fun _ => true) .drop r))).map (StoreRec.agedBy (fun _ => true)) =
      s.keptRecords.map (fun r => { r with age := r.age.map (· - 1), urgent := r.urgent || s.ageMarks r }) := by
    have hkept : s.store.filter (fun r => !s.expiring (fun _ => true) .drop r) = s.keptRecords := by
      simp only [expiring_all_drop]
      rfl
    rw [hkept, aged_store h.kept_rising]
    exact List.map_congr_left fun r _ => agedBy_all r _
  have horder : s.order.map (fun x =>
      if x.state = .queued ∧ (s.goneBy (fun _ => true)).any (fun r => r.draw == x.draw) then
        { x with state := .made .expired false } else x) =
      s.order.map (fun e =>
        if e.state = .queued ∧ ∃ r ∈ s.store.filter s.drops, r.draw = e.draw then
          { e with state := .made .expired false } else e) := by
    rw [hgone]
    simp only [List.any_eq_true, beq_iff_eq]
  have hwdb : s.wdb.filter (fun a => !(s.goneBy (fun _ => true)).any (fun r => r.writeRef == some a.key)) =
      s.wdb.filter (fun a => decide (∀ r ∈ s.store.filter s.drops, r.writeRef ≠ some a.key)) := by
    rw [hgone]
    refine List.filter_congr fun a _ => ?_
    rw [Bool.eq_iff_iff, Bool.not_eq_true', List.any_eq_false, decide_eq_true_iff]
    simp only [beq_iff_eq, ne_eq]
  have hstreams : mapAll s.streams (fun n st =>
      st.expired ((s.store.filter (fun r => true && r.lastTick)).countP (fun r => r.stream == n))) =
      mapAll s.streams (fun n st =>
        { st with
          counters :=
            { st.counters with
              expiredRequests := st.counters.expiredRequests +
                BitVec.ofNat 32
                  ((s.store.filter (fun r => decide (r.age = some 1))).filter (fun r => r.stream = n)).length } }) := by
    rw [hlast]
    refine table_ext fun n => ?_
    rw [cell_mapAll, cell_mapAll, List.countP_eq_length_filter]
    simp only [Bool.beq_eq_decide_eq]
    rfl
  have hst : (Ev.ageRecords ⟨s, jobs⟩ (fun _ => true)).st = s.aged s.ageMarks := by
    rw [ageRecords_fields]
    dsimp only
    rw [hstore, horder, hwdb, hstreams]
    rfl
  have hjobs : (Ev.ageRecords ⟨s, jobs⟩ (fun _ => true)).jobs = jobs ++ s.agedNotices := by
    unfold State.agedNotices
    rw [← hlast]
    rfl
  exact congrArg₂ Ev.mk hst hjobs

end Sys2Proof.Machine
end

section
/-! The age tick at its users (R107, R154, R165), outside DRAINING and in it. -/

namespace Sys2Proof.Machine

variable {s p u : State} {e : Ev}

/-! ### The period of an age tick (R119) -/

/-- The row AGE_TICK is the age tick at its users, in the period that it is a tick of. -/
theorem ageTickNext_from (h : s.AgeTickFrom p) : Ev.ageTickNext ⟨s, []⟩ = Ev.ageTick ⟨p.ageTaken s, []⟩ := by
  obtain ⟨ho, rfl⟩ | ⟨hq, hdue, rfl⟩ := h
  · obtain ⟨-, he⟩ | ⟨hn, -⟩ | ⟨hn, -⟩ := ageTickNext_cases ⟨p, []⟩
    · rw [he]
      rfl
    · exact absurd ho hn
    · exact absurd ho hn
  · obtain ⟨ho, -⟩ | ⟨-, -, he⟩ | ⟨-, hn, -⟩ := ageTickNext_cases ⟨s, []⟩
    · exact absurd ho hq.2
    · rw [he, nextPeriod_quiet hq]
      rfl
    · exact absurd hdue hn

theorem ageTickNext_none (ho : ¬ s.ageOwed) (hn : ¬ tapDue (s.timebase + 1) s.ageTap) :
    Ev.ageTickNext ⟨s, []⟩ = ⟨s, []⟩ := by
  obtain ⟨h, -⟩ | ⟨-, h, -⟩ | ⟨-, -, he⟩ := ageTickNext_cases ⟨s, []⟩
  · exact absurd h ho
  · exact absurd h hn
  · exact he

theorem StoreMatches.ageTaken (h : s.StoreMatches) (p : State) : (p.ageTaken s).StoreMatches :=
  ⟨h.correspond, h.rising, h.drawn⟩

theorem ageTaken_order (p u : State) : (p.ageTaken u).order = u.order := rfl

theorem ageTaken_downResp (p u : State) : (p.ageTaken u).downResp = u.downResp := rfl

theorem ageTaken_held (h : u.responseHeld) (p : State) : (p.ageTaken u).responseHeld := h

/-! ### Outside DRAINING (R107) -/

theorem timesOut_iff (d : DeviceControl) : d.atTimeout = true ↔ d.timesOut := by
  unfold DeviceControl.atTimeout DeviceControl.timesOut
  simp only [Bool.and_eq_true, beq_iff_eq, decide_eq_true_eq, and_assoc]
  rfl

theorem drainTick_other (h : e.st.dev.mode ≠ .draining) : e.drainTick = e := by
  obtain ht | ⟨ht, -⟩ | ⟨-, hm, -⟩ := drainTick_cases e
  · exact ht
  · exact absurd ((timesOut_iff _).mp ht).1 h
  · exact absurd hm h

/-- The age tick outside DRAINING. -/
theorem ageTick_open (hs : s.StoreMatches) (hm : s.dev.mode ≠ .draining) (p : State) :
    Ev.ageTick ⟨p.ageTaken s, []⟩ = ⟨p.ageTaken (s.aged s.ageMarks), s.agedNotices ++ [.ageTick]⟩ := by
  unfold Ev.ageTick
  rw [ageRecords_all (StoreMatches.ageTaken hs p), drainTick_other hm]
  rfl

theorem aged_held (h : s.responseHeld) (marks : StoreRec → Bool) : (s.aged marks).responseHeld := by
  refine responseHeld_map h rfl rfl (fun e => ?_) fun e hi => if_neg fun hq => ?_
  · split
    · next hq => rw [hq.1]; exact ⟨rfl, rfl⟩
    · exact ⟨rfl, rfl⟩
  · rw [hi] at hq
    exact EntryState.noConfusion hq.1

/-- The age tick that the row AGE_TICK is, outside DRAINING. -/
theorem exec_ageTick_open (hr : s.Ready) (hf : s.AgeTickFrom p) (hs : s.StoreMatches) (hm : s.dev.mode ≠ .draining) :
    ∃ t, exec .ageTick s = .next t ∧ Ends (p.ageTaken (s.aged s.ageMarks)) (s.agedNotices ++ [.ageTick]) t := by
  rw [exec_ageTick]
  exact event_ends hr.released hr.settled.drain ((ageTickNext_from hf).trans (ageTick_open hs hm p))
    (ageTaken_held (aged_held hr.settled.noted.response s.ageMarks) p)

/-! ### In DRAINING (R165, R166) -/

/-- With the store empty no record ages. -/
theorem ageRecords_empty (h : e.st.store = []) (sel : StoreRec → Bool) : e.ageRecords sel = e := by
  have hgone : e.st.goneBy sel = [] := by
    unfold State.goneBy
    rw [h]
    rfl
  have horder : e.st.order.map (fun x =>
      if x.state = .queued ∧ (e.st.goneBy sel).any (fun r => r.draw == x.draw) then
        { x with state := .made .expired false } else x) = e.st.order := by
    rw [hgone]
    simp
  have hwdb : e.st.wdb.filter (fun a => !(e.st.goneBy sel).any (fun r => r.writeRef == some a.key)) = e.st.wdb := by
    rw [hgone]
    simp
  have hstreams : mapAll e.st.streams (fun n st =>
      st.expired ((e.st.store.filter (fun r => sel r && r.lastTick)).countP (fun r => r.stream == n))) = e.st.streams := by
    rw [h]
    refine table_ext fun n => ?_
    rw [cell_mapAll]
    unfold Stream.expired
    simp
  have hst : (e.ageRecords sel).st = e.st := by
    have hstore : (urgencyClosure (e.st.expiring sel .force)
        (e.st.store.filter (fun r => !e.st.expiring sel .drop r))).map (StoreRec.agedBy sel) = e.st.store := by
      rw [h]
      rfl
    rw [ageRecords_fields, hstore, horder, hwdb, hstreams]
  have hjobs : (e.ageRecords sel).jobs = e.jobs := by
    unfold Ev.ageRecords
    dsimp only
    rw [h]
    exact List.append_nil _
  exact congrArg₂ Ev.mk hst hjobs

/-- The drain timeout is as State.ghosted says. -/
theorem drainTimeout_eq (e : Ev) :
    e.drainTimeout = ⟨e.st.ghosted, e.jobs ++ [.occur { source := 23, cause := .drainTimeout }]⟩ := by
  have hst : e.drainTimeout.st = e.st.ghosted := by
    have hcount : ∀ n, issuedOf e.st.order n =
        (e.st.order.filter (fun x => decide (x.stream = some n ∧ x.state = .issued))).length := fun n => by
      unfold issuedOf
      rw [List.countP_eq_length_filter]
      refine congrArg List.length (List.filter_congr fun x _ => ?_)
      rw [Bool.eq_iff_iff]
      simp
    rw [drainTimeout_fields]
    unfold State.ghosted
    simp only [hcount]
    rfl
  have hjobs : e.drainTimeout.jobs = e.jobs ++ [.occur { source := 23, cause := .drainTimeout }] := by
    simp only [Ev.drainTimeout, Ev.raise, Ev.map]
  calc e.drainTimeout = ⟨e.drainTimeout.st, e.drainTimeout.jobs⟩ := rfl
    _ = _ := by rw [hst, hjobs]

/-! A response held at the drain timeout. -/

theorem timedOut_none (h : s.downResp = none) : s.timedOut = s.ghosted := by
  unfold State.timedOut
  rw [h]

theorem timedOut_held {r : Response} {m : OrderEntry} (hr : s.downResp = some r) (hm : s.oldestDue r.source = some m) :
    s.timedOut = { s.ghosted with downResp := none, order := setEntry m.draw (.made .aborted false) s.ghosted.order } := by
  unfold State.timedOut
  rw [hr]
  dsimp only
  rw [hm]
  rfl

/-- The oldest response-due entry of a source, if it is ISSUED, is its ghost after the drain timeout (R166). -/
theorem ghosted_oldestDue {S : Source} {m : OrderEntry} (hm : s.oldestDue S = some m) (hi : m.state = .issued) :
    s.ghosted.oldestDue S = some { m with state := .made .aborted true } := by
  have hcomp : ((fun e : OrderEntry => e.source == S && e.state.responseDue) ∘
      fun e => if e.state = .issued then { e with state := .made .aborted true } else e) =
      fun e => e.source == S && e.state.responseDue := funext fun e => by
    rw [Function.comp_apply]
    split
    · next he => rw [he]; rfl
    · rfl
  unfold State.oldestDue State.ghosted at *
  dsimp only at *
  rw [List.find?_map, hcomp, hm]
  exact congrArg some (if_pos hi)

/-- A response held at the drain timeout is discarded into its entry's ghost (R94, R166). -/
theorem ghosted_discards (h : s.responseHeld) {v : State} (horder : v.order = s.ghosted.order)
    (hresp : v.downResp = s.downResp) (jobs : List NoticeJob) :
    Ev.discardResponse ⟨v, jobs⟩ =
      ⟨{ v with downResp := s.timedOut.downResp, order := s.timedOut.order }, jobs⟩ := by
  cases hr : s.downResp with
  | none =>
    have hd : Ev.discardResponse ⟨v, jobs⟩ = ⟨v, jobs⟩ :=
      discardResponse_held (fun r h => by rw [hresp, hr] at h; cases h)
    have hout : s.ghosted.downResp = v.downResp := hresp.symm
    rw [hd, timedOut_none hr, hout, ← horder]
  | some r =>
    obtain ⟨m, hm, hi⟩ := h r hr
    have hdue : v.oldestDue r.source = some { m with state := .made .aborted true } := by
      unfold State.oldestDue
      rw [horder]
      exact ghosted_oldestDue hm hi
    rw [discardResponse_made (e := ⟨v, jobs⟩) (hresp.trans hr) hdue rfl, timedOut_held hr hm, ← horder]
    rfl

theorem timedOut_rest (h : s.responseHeld) :
    s.timedOut = { s.ghosted with downResp := s.timedOut.downResp, order := s.timedOut.order } := by
  cases hr : s.downResp with
  | none => rw [timedOut_none hr]
  | some r =>
    obtain ⟨m, hm, -⟩ := h r hr
    rw [timedOut_held hr hm]

/-! The age tick in DRAINING. -/

theorem ageTick_empty (hs : s.store = []) (p : State) :
    Ev.ageTick ⟨p.ageTaken s, []⟩ =
      ⟨(Ev.drainTick ⟨p.ageTaken s, []⟩).st, (Ev.drainTick ⟨p.ageTaken s, []⟩).jobs ++ [.ageTick]⟩ := by
  unfold Ev.ageTick
  rw [ageRecords_empty (e := ⟨p.ageTaken s, []⟩) hs]

theorem drainTick_timesOut (h : e.st.dev.timesOut) : e.drainTick = e.drainTimeout := if_pos ((timesOut_iff _).mpr h)

theorem drainTick_counts (h : ¬ e.st.dev.timesOut) (hm : e.st.dev.mode = .draining) (hr : e.st.dev.drainRunning = true) :
    e.drainTick = e.map (fun s => s.setDev { s.dev with drainTimer := s.dev.timerUp }) :=
  (if_neg fun ht => h ((timesOut_iff _).mp ht)).trans (if_pos ⟨hm, hr⟩)

theorem drainTick_stopped (hr : e.st.dev.drainRunning = false) : e.drainTick = e := by
  obtain ht | ⟨ht, -⟩ | ⟨-, -, hrun, -⟩ := drainTick_cases e
  · exact ht
  · exact absurd ((timesOut_iff _).mp ht).2.1 (by rw [hr]; exact Bool.false_ne_true)
  · exact absurd hrun (by rw [hr]; exact Bool.false_ne_true)

/-- The age tick that is the drain timeout. -/
theorem exec_ageTick_timesOut (hr : s.Ready) (hf : s.AgeTickFrom p) (hs : s.store = []) (ht : s.dev.timesOut) :
    ∃ t, exec .ageTick s = .next t ∧
      Ends (p.ageTaken s.timedOut) [.occur { source := 23, cause := .drainTimeout }, .ageTick] t := by
  have hev : Ev.ageTickNext ⟨s, []⟩ =
      ⟨p.ageTaken s.ghosted, [.occur { source := 23, cause := .drainTimeout }, .ageTick]⟩ := by
    rw [ageTickNext_from hf, ageTick_empty hs, drainTick_timesOut (e := ⟨p.ageTaken s, []⟩) ht, drainTimeout_eq]
    rfl
  rw [exec_ageTick, timedOut_rest hr.settled.noted.response]
  exact happen_discards hr hev (ghosted_discards hr.settled.noted.response (v := p.ageTaken s.ghosted)
    (ageTaken_order p _) (ageTaken_downResp p _) _)

/-- The row DRAIN_TIMEOUT where it is due. -/
theorem exec_drainTimeout_due (hr : s.Ready) (ht : s.dev.timesOut) :
    ∃ t, exec .drainTimeout s = .next t ∧ Ends s.timedOut [.occur { source := 23, cause := .drainTimeout }] t := by
  have hev : Ev.drainTimeoutIfDue ⟨s, []⟩ = ⟨s.ghosted, [.occur { source := 23, cause := .drainTimeout }]⟩ :=
    (if_pos ((timesOut_iff _).mpr ht)).trans (drainTimeout_eq _)
  rw [exec_drainTimeout, timedOut_rest hr.settled.noted.response]
  exact happen_discards hr hev (ghosted_discards hr.settled.noted.response (v := s.ghosted) rfl rfl _)

/-- The state in which the running drain timer has counted one more. -/
def State.drainCounted (s : State) : State := { s with dev := { s.dev with drainTimer := s.dev.timerUp } }

theorem State.Settled.ageTaken (h : s.Settled) (hu : u = { s with dev := u.dev }) (hm : u.dev.mode = s.dev.mode)
    (p : State) : (p.ageTaken u).Settled := by
  rw [hu]
  exact h.congr rfl hm id rfl rfl rfl rfl rfl rfl (fun _ => rfl) (fun _ => rfl) (fun _ => rfl) (fun _ => rfl)
    (fun _ => rfl) h.noted.presented

/-- An age tick of the drain that is not the timeout is judged and brings nothing about. -/
theorem exec_ageTick_judged (hr : s.Ready) (hf : s.AgeTickFrom p) (hu : u = { s with dev := u.dev })
    (hm : u.dev.mode = s.dev.mode) (hev : Ev.ageTick ⟨p.ageTaken s, []⟩ = ⟨p.ageTaken u, [.ageTick]⟩) :
    ∃ t, exec .ageTick s = .next t ∧ Judged (p.ageTaken u) [.ageTick] t := by
  have hsettled := hr.settled.ageTaken hu hm p
  rw [exec_ageTick]
  exact event_judged hr.released hr.settled.drain ((ageTickNext_from hf).trans hev) hsettled.noted.response hsettled.offer
    hsettled.drain hsettled.answers

theorem ageTick_drainCounts (hs : s.store = []) (ht : ¬ s.dev.timesOut) (hm : s.dev.mode = .draining)
    (hrun : s.dev.drainRunning = true) (p : State) :
    Ev.ageTick ⟨p.ageTaken s, []⟩ = ⟨p.ageTaken s.drainCounted, [.ageTick]⟩ := by
  rw [ageTick_empty hs, drainTick_counts (e := ⟨p.ageTaken s, []⟩) ht hm hrun]
  rfl

theorem ageTick_drainStopped (hs : s.store = []) (hrun : s.dev.drainRunning = false) (p : State) :
    Ev.ageTick ⟨p.ageTaken s, []⟩ = ⟨p.ageTaken s, [.ageTick]⟩ := by
  rw [ageTick_empty hs, drainTick_stopped (e := ⟨p.ageTaken s, []⟩) hrun]
  rfl

theorem exec_ageTick_counts (hr : s.Ready) (hf : s.AgeTickFrom p) (hs : s.store = []) (ht : ¬ s.dev.timesOut)
    (hm : s.dev.mode = .draining) (hrun : s.dev.drainRunning = true) :
    ∃ t, exec .ageTick s = .next t ∧ Judged (p.ageTaken s.drainCounted) [.ageTick] t :=
  exec_ageTick_judged hr hf rfl rfl (ageTick_drainCounts hs ht hm hrun p)

theorem exec_ageTick_stopped (hr : s.Ready) (hf : s.AgeTickFrom p) (hs : s.store = []) (hrun : s.dev.drainRunning = false) :
    ∃ t, exec .ageTick s = .next t ∧ Judged (p.ageTaken s) [.ageTick] t :=
  exec_ageTick_judged hr hf rfl rfl (ageTick_drainStopped hs hrun p)

end Sys2Proof.Machine

namespace Sys2Proof.Proofs

open Sys2Proof Sys2Proof.Machine

/-- Settles O33. -/
theorem drainTimerAndTimeout : Obligations.DrainTimerAndTimeout := by
  intro s hr up due ghosted discarded raised
  refine ⟨fun hd hresp => ?_, fun r m hd hresp hm => ?_, fun hd => ?_, fun p hf hs => ⟨fun hd hresp => ?_,
    fun r m hd hresp hm => ?_, fun hm hrun hlimit => ?_, fun hm hrun => ?_⟩⟩
  · have h := exec_drainTimeout_due hr hd
    rw [timedOut_none hresp] at h
    exact h
  · have h := exec_drainTimeout_due hr hd
    rw [timedOut_held hresp hm] at h
    exact h
  · exact happen_idle hr (if_neg fun ht => hd ((timesOut_iff _).mp ht))
  · have h := exec_ageTick_timesOut hr hf hs hd
    rw [timedOut_none hresp] at h
    exact h
  · have h := exec_ageTick_timesOut hr hf hs hd
    rw [timedOut_held hresp hm] at h
    exact h
  · have hnot : ¬ s.dev.timesOut := fun ⟨_, _, hone, hle⟩ => by
      have hup : s.dev.timerUp = up := rfl
      omega
    exact exec_ageTick_counts hr hf hs hnot hm hrun
  · exact exec_ageTick_stopped hr hf hs hrun

end Sys2Proof.Proofs
end

section
/-! The ticks of the taps in the present REFCLK period and in the next (R119). -/

namespace Sys2Proof.Machine

variable {s p u : State} {e : Ev} {k : Tap}

/-! ### The tick of a tap at the timers that await it -/

/-- The ticks made after that of tap k is taken at the timers below number n. -/
def State.tapTaken (s : State) (k : Tap) (n : Nat) : Vector Bool 4 :=
  mapAll s.timerTicks (fun t made => if t.val < n then made && !decide (s.tickOwed k t) else made)

theorem tapTaken_zero (s : State) (k : Tap) : s.tapTaken k 0 = s.timerTicks :=
  table_ext fun t => by
    unfold State.tapTaken
    rw [cell_mapAll, if_neg (Nat.not_lt_zero _)]

theorem tapTaken_four (s : State) (k : Tap) :
    s.tapTaken k 4 = mapAll s.timerTicks (fun t made => made && !decide (s.tickOwed k t)) :=
  table_ext fun t => by
    unfold State.tapTaken
    rw [cell_mapAll, cell_mapAll, if_pos t.isLt]

theorem tapTaken_self (s : State) (k : Tap) (t : TimerId) : cell (s.tapTaken k t.val) t = cell s.timerTicks t := by
  unfold State.tapTaken
  rw [cell_mapAll, if_neg (Nat.lt_irrefl _)]

/-- The tick taken at timer t after those below it. -/
theorem tapTaken_succ (s : State) (k : Tap) (t : TimerId) :
    s.tapTaken k (t.val + 1) =
      if s.tickOwed k t then updAt (s.tapTaken k t.val) t (fun _ => false) else s.tapTaken k t.val := by
  have hother : ∀ u : TimerId, u ≠ t → cell (s.tapTaken k (t.val + 1)) u = cell (s.tapTaken k t.val) u := fun u hu => by
    unfold State.tapTaken
    rw [cell_mapAll, cell_mapAll]
    have hne : u.val ≠ t.val := fun h => hu (Fin.ext h)
    by_cases hlt : u.val < t.val
    · rw [if_pos hlt, if_pos (by omega)]
    · rw [if_neg hlt, if_neg (by omega)]
  have hself : cell (s.tapTaken k (t.val + 1)) t = (cell s.timerTicks t && !decide (s.tickOwed k t)) := by
    unfold State.tapTaken
    rw [cell_mapAll, if_pos (Nat.lt_succ_self _)]
  refine table_ext fun u => ?_
  by_cases hu : u = t
  · subst hu
    rw [hself]
    by_cases ho : s.tickOwed k u
    · rw [if_pos ho, cell_updAt_self, decide_eq_true ho, Bool.not_true, Bool.and_false]
    · rw [if_neg ho, tapTaken_self, decide_eq_false ho, Bool.not_false, Bool.and_true]
  · rw [hother u hu]
    split
    · rw [cell_updAt_other _ _ _ _ hu]
    · rfl

/-- The tick of tap k at timer t, in an event that has taken it at the timers below. -/
theorem tapAt_hits (s : State) (k : Tap) (t : TimerId) (jobs : List NoticeJob) :
    Ev.tapAt ⟨(s.timersHit (hitBelow t.val (s.tapHit k))).setTimerTicks (s.tapTaken k t.val), jobs⟩ k t =
      Ev.hits ⟨(s.timersHit (hitBelow t.val (s.tapHit k))).setTimerTicks (s.tapTaken k (t.val + 1)), jobs⟩
        (oneHit t (s.tapHit k t)) := by
  have htimer := hitBelow_timer s (s.tapHit k) t
  have howed : ((s.timersHit (hitBelow t.val (s.tapHit k))).setTimerTicks (s.tapTaken k t.val)).awaits k t =
      s.awaits k t := by
    have hcell := tapTaken_self s k t
    unfold State.awaits
    exact congrArg₂ (fun a b => a && b) (congrArg₂ (fun (a : Bool) (x : Timer) => a && x.clock == .tap k) hcell htimer) rfl
  rw [tapTaken_succ]
  by_cases ho : s.tickOwed k t
  · have hhit : s.tapHit k t = (s.timer t).tickHit := if_pos ho
    rw [if_pos ho, hhit]
    refine (if_pos (howed.trans ((awaits_iff s k t).mpr ho))).trans ((tick_hits _ _).trans ?_)
    exact congrArg (fun x : Timer => Ev.hits _ (oneHit t x.tickHit)) htimer
  · have hhit : s.tapHit k t = .none := if_neg ho
    rw [if_neg ho, hhit, hits_oneHit_none]
    exact if_neg (fun h => ho ((awaits_iff s k t).mp (howed.symm.trans h)))

/-- The tick of tap k at the timers that await it is as State.ticked says. -/
theorem takeTap_eq (s : State) (jobs : List NoticeJob) (k : Tap) :
    Ev.takeTap ⟨s, jobs⟩ k = ⟨s.ticked k, jobs ++ s.hitNotices (s.tapHit k)⟩ := by
  unfold Ev.takeTap
  rw [foldl_hits (f := fun e t => e.tapAt k t) (v := s.tapTaken k) jobs (tapTaken_zero s k) (tapAt_hits s k),
    tapTaken_four]
  rfl

theorem tapTick_owed (h : ∃ t, s.tickOwed k t) :
    Ev.tapTick ⟨s, []⟩ k = ⟨s.ticked k, s.hitNotices (s.tapHit k)⟩ := by
  obtain ⟨-, he⟩ | ⟨hn, -⟩ | ⟨hn, -⟩ := tapTick_cases ⟨s, []⟩ k
  · rw [he, takeTap_eq, List.nil_append]
  · exact absurd h (not_exists.mpr hn)
  · exact absurd h (not_exists.mpr hn)

theorem tapTick_begins (h : ∀ t, ¬ s.tickOwed k t) (hdue : tapDue (s.timebase + 1) k) :
    Ev.tapTick ⟨s, []⟩ k = (Ev.nextPeriod ⟨s, []⟩).takeTap k := by
  obtain ⟨ho, -⟩ | ⟨-, -, he⟩ | ⟨-, hn, -⟩ := tapTick_cases ⟨s, []⟩ k
  · exact absurd ho (not_exists.mpr h)
  · exact he
  · exact absurd hdue hn

theorem tapTick_none (h : ∀ t, ¬ s.tickOwed k t) (hn : ¬ tapDue (s.timebase + 1) k) :
    Ev.tapTick ⟨s, []⟩ k = ⟨s, []⟩ := by
  obtain ⟨ho, -⟩ | ⟨-, hdue, -⟩ | ⟨-, -, he⟩ := tapTick_cases ⟨s, []⟩ k
  · exact absurd ho (not_exists.mpr h)
  · exact absurd hdue hn
  · exact he

theorem ticked_held (h : s.responseHeld) (k : Tap) : (s.ticked k).responseHeld := h

/-- The row TAP_TICK as the tick of the present period. -/
theorem exec_tapTick_owed (hr : s.Ready) (h : ∃ t, s.tickOwed k t) :
    ∃ t, exec (.tapTick k) s = .next t ∧ Ends (s.ticked k) (s.hitNotices (s.tapHit k)) t :=
  event_ends (f := fun e => e.tapTick k) hr.released hr.settled.drain (tapTick_owed h)
    (ticked_held hr.settled.noted.response k)

/-- The row TAP_TICK as the tick of the next period, which begins. -/
theorem exec_tapTick_quiet (hr : s.Ready) (hq : s.quiet) (hdue : tapDue (s.timebase + 1) k) :
    ∃ t, exec (.tapTick k) s = .next t ∧
      Ends (s.nextPeriod.ticked k) (s.nextPeriod.hitNotices (s.nextPeriod.tapHit k)) t := by
  have hf : Ev.tapTick ⟨s, []⟩ k = ⟨s.nextPeriod.ticked k, s.nextPeriod.hitNotices (s.nextPeriod.tapHit k)⟩ := by
    rw [tapTick_begins (hq.1 k) hdue, nextPeriod_quiet hq]
    exact takeTap_eq _ _ _
  exact event_ends (f := fun e => e.tapTick k) hr.released hr.settled.drain hf
    (ticked_held (s := s.nextPeriod) hr.settled.noted.response k)

end Sys2Proof.Machine
end

section
/-! A REFCLK period that begins while ticks of the present one are untaken: each is first an event of its own (R119,
log 6). -/

namespace Sys2Proof.Machine

variable {s b : State} {e : Ev} {c : Instr}

theorem close_inReset (e : Ev) : e.close.inReset = e.st.inReset := by
  refine close_induction (P := fun u => u.inReset = e.st.inReset) (fun e h => ?_) (fun e h => ?_) (fun s h _ => ?_)
    (fun e r h _ => ?_) (fun e h => ?_) e rfl
  · rw [discardResponse_rest]
    exact h
  · rw [fill_rest]
    exact h
  · rw [warmComplete_fields]
    exact h
  · rw [take_rest]
    exact h
  · rw [judge_rest]
    exact h

/-! ### The ticks that are left -/

/-- The ticks that a tick of tap j leaves untaken: those of the other taps. -/
theorem ticked_owed (s : State) (j i : Tap) (v : TimerId) : (s.ticked j).tickOwed i v ↔ s.tickOwed i v ∧ i ≠ j := by
  have hmade : cell (s.ticked j).timerTicks v = true ↔ cell s.timerTicks v = true ∧ ¬ s.tickOwed j v := by
    have hcell : cell (s.ticked j).timerTicks v = (cell s.timerTicks v && !decide (s.tickOwed j v)) := cell_mapAll _ _ v
    rw [hcell, Bool.and_eq_true, Bool.not_eq_true', decide_eq_false_iff_not]
  have hclock : ((s.ticked j).timer v).clock = (s.timer v).clock := by
    have htimer : (s.ticked j).timer v = (s.timer v).hit (s.tapHit j v) := timersHit_timer s (s.tapHit j) v
    rw [htimer, (hit_config _ _).1]
  have hbase : (s.ticked j).timebase = s.timebase := rfl
  unfold State.tickOwed at *
  rw [hmade, hclock, hbase]
  constructor
  · rintro ⟨⟨hm, hn⟩, hc, hd⟩
    exact ⟨⟨hm, hc, hd⟩, fun hij => hn ⟨hm, hij ▸ hc, hij ▸ hd⟩⟩
  · rintro ⟨⟨hm, hc, hd⟩, hij⟩
    exact ⟨⟨hm, fun hj => hij (ClockSource.tap.inj (hc.symm.trans hj.2.1))⟩, hc, hd⟩

theorem ticked_rest (s : State) (j : Tap) :
    (s.ticked j).timebase = s.timebase ∧ (s.ticked j).ageDue = s.ageDue ∧ (s.ticked j).ageTap = s.ageTap ∧
      (s.ticked j).inReset = s.inReset := ⟨rfl, rfl, rfl, rfl⟩

/-- The age tick at its users leaves the ticks of the timers. -/
theorem ageTick_ticks (e : Ev) : SameTicks e.st e.ageTick.st := by
  have hage : SameTicks e.st (e.ageRecords (fun _ => true)).st := by
    rw [ageRecords_fields]
    exact .of_eq rfl rfl rfl rfl rfl
  refine hage.trans ?_
  unfold Ev.ageTick
  rcases drainTick_cases (e.ageRecords (fun _ => true)) with h | ⟨-, h⟩ | ⟨-, -, -, h⟩ <;> rw [h]
  · exact .refl _
  · rw [drainTimeout_eq]
    exact .of_eq rfl rfl rfl rfl rfl
  · exact .of_eq rfl rfl rfl rfl rfl

theorem ageTick_inReset (e : Ev) : e.ageTick.st.inReset = e.st.inReset := by
  have hage : (e.ageRecords (fun _ => true)).st.inReset = e.st.inReset := by rw [ageRecords_fields]
  refine Eq.trans ?_ hage
  unfold Ev.ageTick
  rcases drainTick_cases (e.ageRecords (fun _ => true)) with h | ⟨-, h⟩ | ⟨-, -, -, h⟩ <;> rw [h]
  · rw [drainTimeout_eq]
    rfl
  · rfl

/-! ### The untaken ticks of the timers -/

/-- A timer that awaits no tick is passed by. -/
theorem settleTimer_none {t : TimerId} (h : ∀ i, ¬ e.st.tickOwed i t) : e.settleTimer t = e := by
  rcases settleTimer_cases e t with ⟨k, hk, -⟩ | ⟨-, he⟩
  · exact absurd hk (h k)
  · exact he

theorem settleTimers_none {l : List TimerId} (h : ∀ t ∈ l, ∀ i, ¬ e.st.tickOwed i t) : l.foldl Ev.settleTimer e = e := by
  induction l with
  | nil => rfl
  | cons t l ih =>
    rw [List.foldl_cons, settleTimer_none (h t List.mem_cons_self)]
    exact ih fun u hu => h u (List.mem_cons_of_mem _ hu)

/-- The first tick of tap j at timer u that is untaken, taken as an event. -/
theorem settleTimer_owed {j : Tap} {u : TimerId} (h : e.st.tickOwed j u) :
    e.settleTimer u = ⟨(e.takeTap j).close, []⟩ := by
  rcases settleTimer_cases e u with ⟨k, hk, he⟩ | ⟨hn, -⟩
  · have hkj : k = j := ClockSource.tap.inj (hk.2.1.symm.trans h.2.1)
    rw [he, hkj]
  · exact absurd h (hn j)

/-- The timers in their order, around one of them. -/
theorem finRange_around (u : TimerId) : ∃ as bs, List.finRange 4 = as ++ u :: bs ∧ ∀ a ∈ as, a < u := by
  obtain ⟨as, bs, h⟩ := List.append_of_mem (List.mem_finRange u)
  have hsorted := List.pairwise_lt_finRange 4
  rw [h] at hsorted
  exact ⟨as, bs, h, fun a ha => (List.pairwise_append.mp hsorted).2.2 a ha u List.mem_cons_self⟩

/-- A period that begins while timer u is the first with an untaken tick begins as it does after that tick. -/
theorem nextPeriod_settles {j : Tap} {u : TimerId} (h : s.tickOwed j u) (hfirst : ∀ i, ∀ v < u, ¬ s.tickOwed i v)
    (hb : b = (Ev.takeTap ⟨s, []⟩ j).close) (howed : ∀ i v, b.tickOwed i v ↔ s.tickOwed i v ∧ i ≠ j) :
    Ev.nextPeriod ⟨s, []⟩ = Ev.nextPeriod ⟨b, []⟩ := by
  have hs : Ev.settleTimer ⟨s, []⟩ u = ⟨b, []⟩ := by rw [settleTimer_owed h, hb]
  have hbu : Ev.settleTimer ⟨b, []⟩ u = ⟨b, []⟩ := settleTimer_none fun i hi => by
    obtain ⟨ho, hne⟩ := (howed i u).mp hi
    exact hne (ClockSource.tap.inj (ho.2.1.symm.trans h.2.1))
  obtain ⟨as, bs, hl, has⟩ := finRange_around u
  have hsas : as.foldl Ev.settleTimer ⟨s, []⟩ = ⟨s, []⟩ := settleTimers_none fun t ht i => hfirst i t (has t ht)
  have hbas : as.foldl Ev.settleTimer ⟨b, []⟩ = ⟨b, []⟩ :=
    settleTimers_none fun t ht i hi => hfirst i t (has t ht) ((howed i t).mp hi).1
  have hfold : (List.finRange 4).foldl Ev.settleTimer ⟨s, []⟩ = (List.finRange 4).foldl Ev.settleTimer ⟨b, []⟩ := by
    rw [hl, List.foldl_append, List.foldl_append, List.foldl_cons, List.foldl_cons, hsas, hbas, hs, hbu]
  unfold Ev.nextPeriod
  rw [hfold]

/-- A row that begins a period does so after the ticks that are left. -/
theorem exec_beginsPeriod (hr : s.Ready) (hc : s.beginsPeriod c) (hbegins : b.beginsPeriod c) (hreset : b.inReset = false)
    (hwaits : b.drainWaits) (hnext : Ev.nextPeriod ⟨s, []⟩ = Ev.nextPeriod ⟨b, []⟩) : exec c s = exec c b := by
  have hopen : ∀ f : Ev → Ev, f ⟨s, []⟩ = f ⟨b, []⟩ → happen s f = happen b f := fun f hf => by
    rw [happen_open hr.released hr.settled.drain, happen_open hreset hwaits, hf]
  rcases hc with ⟨k, rfl, hn, hdue⟩ | ⟨rfl, hn, hdue⟩
  · rcases hbegins with ⟨k', hk, hn', hdue'⟩ | ⟨hk, -⟩
    · cases hk
      rw [exec_tapTick, exec_tapTick]
      exact hopen (fun e => e.tapTick k) (by rw [tapTick_begins hn hdue, tapTick_begins hn' hdue', hnext])
    · cases hk
  · rcases hbegins with ⟨k', hk, -⟩ | ⟨-, hn', hdue'⟩
    · cases hk
    · rw [exec_ageTick, exec_ageTick]
      refine hopen Ev.ageTickNext ?_
      obtain ⟨ho, -⟩ | ⟨-, -, he⟩ | ⟨-, hd, -⟩ := ageTickNext_cases ⟨s, []⟩
      · exact absurd ho hn
      · obtain ⟨ho, -⟩ | ⟨-, -, hb⟩ | ⟨-, hd, -⟩ := ageTickNext_cases ⟨b, []⟩
        · exact absurd ho hn'
        · rw [he, hb, hnext]
        · exact absurd hdue' hd
      · exact absurd hdue hd

/-- A row that begins a period while a tick of a timer is untaken comes to what it does after the first such tick. -/
theorem exec_beginsPeriod_settles {j : Tap} {u : TimerId} (hr : s.Ready) (hc : s.beginsPeriod c) (h : s.tickOwed j u)
    (hfirst : ∀ i, ∀ v < u, ¬ s.tickOwed i v) :
    ∃ b, exec (.tapTick j) s = .next b ∧ exec c s = exec c b := by
  have hexec : exec (.tapTick j) s = .next (Ev.close (Ev.takeTap ⟨s, []⟩ j)) := by
    rw [exec_tapTick, happen_open hr.released hr.settled.drain, tapTick_owed ⟨u, h⟩, takeTap_eq]
    rfl
  refine ⟨_, hexec, ?_⟩
  have hticks := close_ticks (Ev.takeTap ⟨s, []⟩ j)
  have hreset := close_inReset (Ev.takeTap ⟨s, []⟩ j)
  have hwaits := close_drainWaits (Ev.takeTap ⟨s, []⟩ j)
  have hst : (Ev.takeTap ⟨s, []⟩ j).st = s.ticked j := by rw [takeTap_eq]
  rw [hst] at hticks hreset
  have howed : ∀ i v, (Ev.close (Ev.takeTap ⟨s, []⟩ j)).tickOwed i v ↔ s.tickOwed i v ∧ i ≠ j := fun i v =>
    (hticks.tickOwed i v).trans (ticked_owed s j i v)
  have hbegins : (s.ticked j).beginsPeriod c := by
    rcases hc with ⟨k, hk, hn, hdue⟩ | hage
    · exact .inl ⟨k, hk, fun t ht => hn t ((ticked_owed s j k t).mp ht).1, hdue⟩
    · exact .inr hage
  exact exec_beginsPeriod hr hc ((hticks.beginsPeriod c).mpr hbegins) (hreset.trans hr.released) hwaits
    (nextPeriod_settles h hfirst rfl howed)

/-- A row that begins a period while the age tick alone is untaken comes to what it does after that tick. -/
theorem exec_beginsPeriod_ages (hr : s.Ready) (hc : s.beginsPeriod c) (hn : ∀ j u, ¬ s.tickOwed j u) (ho : s.ageOwed) :
    ∃ b, exec .ageTick s = .next b ∧ exec c s = exec c b := by
  have htake : Ev.ageTickNext ⟨s, []⟩ = Ev.takeAge ⟨s, []⟩ := by
    obtain ⟨-, he⟩ | ⟨h, -⟩ | ⟨h, -⟩ := ageTickNext_cases ⟨s, []⟩
    · exact he
    · exact absurd ho h
    · exact absurd ho h
  have hexec : exec .ageTick s = .next (Ev.close (Ev.takeAge ⟨s, []⟩)) := by
    rw [exec_ageTick, happen_open hr.released hr.settled.drain, htake]
  refine ⟨_, hexec, ?_⟩
  have hticks : SameTicks (s.setAgeDue false) (Ev.close (Ev.takeAge ⟨s, []⟩)) :=
    (ageTick_ticks ⟨s.setAgeDue false, []⟩).trans (close_ticks _)
  have hreset : (Ev.close (Ev.takeAge ⟨s, []⟩)).inReset = s.inReset :=
    (close_inReset _).trans (ageTick_inReset ⟨s.setAgeDue false, []⟩)
  have howed : ∀ i v, ¬ (Ev.close (Ev.takeAge ⟨s, []⟩)).tickOwed i v := fun i v h => hn i v ((hticks.tickOwed i v).mp h)
  have hage : ¬ (Ev.close (Ev.takeAge ⟨s, []⟩)).ageOwed := fun h => Bool.false_ne_true (hticks.ageOwed.mp h).1
  have hbegins : (s.setAgeDue false).beginsPeriod c := by
    rcases hc with ⟨k, hk, hn, hdue⟩ | ⟨-, hnot, -⟩
    · exact .inl ⟨k, hk, hn, hdue⟩
    · exact absurd ho hnot
  refine exec_beginsPeriod hr hc ((hticks.beginsPeriod c).mpr hbegins) (hreset.trans hr.released) (close_drainWaits _) ?_
  have hsettled : Ev.settleAge ⟨s, []⟩ = ⟨(Ev.takeAge ⟨s, []⟩).close, []⟩ := by
    obtain ⟨-, he⟩ | ⟨h, -⟩ := settleAge_cases ⟨s, []⟩
    · exact he
    · exact absurd ho h
  have hbsettled : Ev.settleAge ⟨(Ev.takeAge ⟨s, []⟩).close, []⟩ = ⟨(Ev.takeAge ⟨s, []⟩).close, []⟩ := by
    obtain ⟨h, -⟩ | ⟨-, he⟩ := settleAge_cases ⟨(Ev.takeAge ⟨s, []⟩).close, []⟩
    · exact absurd h hage
    · exact he
  unfold Ev.nextPeriod
  rw [settleTimers_none (e := ⟨s, []⟩) (fun t _ i => hn i t), hsettled,
    settleTimers_none (e := ⟨(Ev.takeAge ⟨s, []⟩).close, []⟩) (fun t _ i => howed i t), hbsettled]

/-- An event that leaves a settled state ends judged exactly as it ends. -/
theorem State.Settled.ends {t : State} {jobs : List NoticeJob} (h : s.Settled) (hj : Judged s jobs t) : Ends s jobs t :=
  (ends_iff_judged h.offer h.drain h.answers).mpr hj

end Sys2Proof.Machine

namespace Sys2Proof.Proofs

open Sys2Proof Sys2Proof.Machine

/-- Settles O24. -/
theorem ticksAndEdgesAtEveryTimer : Obligations.TicksAndEdgesAtEveryTimer := by
  refine fun s hr => ⟨fun k => ⟨fun ho => ?_, fun hq hdue => ?_, fun hn hdue => ?_⟩, fun p hf => ⟨fun hs hm => ?_,
    fun hm hs => ⟨fun ht => ?_, fun ht hrun => ?_, fun hrun => ?_⟩⟩, fun ho hn => ?_, fun c hc => ⟨fun j u ho hfirst => ?_,
    fun hn ho => ?_⟩, fun pin => ?_⟩
  · exact exec_tapTick_owed hr ho
  · exact exec_tapTick_quiet hr hq hdue
  · exact happen_idle (f := fun e => e.tapTick k) hr (tapTick_none hn hdue)
  · exact ⟨s.ageMarks, fun r hr => ageMarks_iff hs hr, exec_ageTick_open hr hf hs hm⟩
  · exact exec_ageTick_timesOut hr hf hs ht
  · obtain ⟨t, ht, hj⟩ := exec_ageTick_counts hr hf hs ht hm hrun
    exact ⟨t, ht, (hr.settled.ageTaken (u := s.drainCounted) rfl rfl p).ends hj⟩
  · obtain ⟨t, ht, hj⟩ := exec_ageTick_stopped hr hf hs hrun
    exact ⟨t, ht, (hr.settled.ageTaken (u := s) rfl rfl p).ends hj⟩
  · exact happen_idle hr (ageTickNext_none ho hn)
  · exact exec_beginsPeriod_settles hr hc ho hfirst
  · exact exec_beginsPeriod_ages hr hc hn ho
  · exact hits_ends (f := fun e => e.cycleEdge pin) hr
      (foldl_timers (fun _ x => x.edgeHit pin) (fun e t => pinEdge_hits e pin t) s []) rfl rfl

end Sys2Proof.Proofs
end

section
/-! What a tick of a tap leaves alone: the store, the device control and the presentation hold (R107, R119). -/

namespace Sys2Proof.Machine

variable {s v : State} {e : Ev} {k : Tap}

/-! ### The presentation hold (R151) -/

/-- Only an age tick clears the presentation hold. -/
theorem hold_runAll {l : List NoticeJob} (h : NoticeJob.ageTick ∉ l) (nt : Notices) : (nt.runAll l).hold = nt.hold := by
  have hpresent : ∀ n : Notices, n.present.hold = n.hold := fun n => by rw [present_rest]
  have hfold : ∀ n : Notices, (l.foldl Notices.run n).hold = n.hold := by
    induction l with
    | nil => exact fun _ => rfl
    | cons j l ih =>
      intro n
      rw [List.foldl_cons, ih fun hj => h (List.mem_cons_of_mem _ hj)]
      cases j with
      | occur o =>
        unfold Notices.run
        rw [hpresent, occur_rest]
      | ageTick => exact absurd List.mem_cons_self h
  exact (hfold _).trans (hpresent nt)

theorem creditNotices_untimed (u : State) : NoticeJob.ageTick ∉ u.creditNotices := by
  simp [State.creditNotices]

theorem stallNotices_untimed (u : State) : NoticeJob.ageTick ∉ u.stallNotices := by
  unfold State.stallNotices
  simp only [List.mem_append, not_or]
  refine ⟨⟨?_, ?_⟩, ?_⟩ <;> split <;> simp

theorem hitNotices_untimed (u : State) (hit : TimerId → TimerHit) : NoticeJob.ageTick ∉ u.hitNotices hit := by
  rw [hitNotices_eq]
  intro h
  obtain ⟨t, -, ht⟩ := List.mem_flatMap.mp h
  unfold Timer.hitNotices at ht
  cases hh : hit t with
  | none => rw [hh] at ht; cases ht
  | count => rw [hh] at ht; cases ht
  | frame cause =>
    rw [hh] at ht
    dsimp only at ht
    split at ht <;> simp at ht

/-! ### What an event leaves alone -/

/-- An event under way that has left the store, the device control and the notice unit, and raises causes alone. -/
structure Leaves (s : State) (e : Ev) : Prop where
  store : e.st.store = s.store
  dev : e.st.dev = s.dev
  nt : e.st.nt = s.nt
  jobs : NoticeJob.ageTick ∉ e.jobs

/-- A state with the store, the device control and the presentation hold of another. -/
structure Stays (s t : State) : Prop where
  store : t.store = s.store
  dev : t.dev = s.dev
  hold : t.nt.hold = s.nt.hold

theorem Stays.trans {a b c : State} (h : Stays a b) (h' : Stays b c) : Stays a c :=
  ⟨h'.store.trans h.store, h'.dev.trans h.dev, h'.hold.trans h.hold⟩

theorem Leaves.discarded (h : Leaves s e) : Leaves s e.discardResponse := by
  rcases discardResponse_cases e with hd | ⟨_, _, _, hd⟩ | ⟨_, _, _, _, _, hd⟩ | ⟨_, _, _, _, _, _, _, hd⟩ <;> rw [hd]
  · exact h
  · exact ⟨h.store, h.dev, h.nt, by simpa using h.jobs⟩
  · exact ⟨h.store, h.dev, h.nt, h.jobs⟩
  · exact ⟨h.store, h.dev, h.nt, h.jobs⟩

theorem fill_untimed (h : NoticeJob.ageTick ∉ e.jobs) : NoticeJob.ageTick ∉ e.fill.jobs := by
  rcases fill_cases e with hf | ⟨r, m, -, -, hf⟩ | ⟨f, -, -, -, hf⟩ <;> rw [hf]
  · exact h
  · obtain ⟨a, -, ⟨-, hm⟩ | ⟨n, jobs, -, hm, ⟨-, rfl⟩ | ⟨-, rfl⟩⟩⟩ := memoryAnswer_cases e r m <;> rw [hm]
    · exact h
    · simpa using h
    · simpa using h
  · exact h

theorem Leaves.filled (h : Leaves s e) : Leaves s e.fill := by
  have hrest := fill_rest e
  refine ⟨?_, ?_, ?_, fill_untimed h.jobs⟩ <;> rw [hrest]
  · exact h.store
  · exact h.dev
  · exact h.nt

/-- The take of a request that is not kept. -/
theorem Leaves.taken {r : Request} (h : Leaves s e) (hk : e.st.admission r ≠ .kept (e.st.classify r)) :
    Leaves s (e.take r) ∧ (e.take r).st.up.offer = none := by
  rcases admission_cases e.st r with ⟨ha, -⟩ | ⟨ha, -⟩ | ⟨ha, -⟩ | ⟨ha, -⟩
  · rw [take_malformed ha]
    exact ⟨⟨h.store, h.dev, h.nt, by simpa using h.jobs⟩, rfl⟩
  · rw [take_overflow ha]
    exact ⟨⟨h.store, h.dev, h.nt, by simpa [Ev.raise, Ev.map] using h.jobs⟩, rfl⟩
  · rw [take_refused ha]
    refine ⟨⟨h.store, h.dev, h.nt, ?_⟩, rfl⟩
    unfold Stream.refusedNotices
    split <;> simpa using h.jobs
  · exact absurd ha hk

theorem Leaves.judged (h : Leaves s e) : Stays s e.judge := by
  obtain ⟨l, hl, hnt⟩ := judge_nt e
  rw [noteStall_jobs, noteShortfalls_jobs] at hl
  have huntimed : NoticeJob.ageTick ∉ l := fun hm => by
    rcases List.mem_append.mp (hl.mem_iff.mp hm) with hm | hm
    · rcases List.mem_append.mp hm with hm | hm
      · exact h.jobs hm
      · exact creditNotices_untimed _ hm
    · exact stallNotices_untimed _ hm
  refine ⟨?_, ?_, ?_⟩
  · rw [judge_rest]
    exact h.store
  · rw [judge_rest]
    exact h.dev
  · rw [hnt, hold_runAll huntimed, h.nt]

/-! ### The end of a tick -/

/-- Nothing waits on UP, outside DRAINING; or everything that a state waits for goes on. -/
def State.Calm (s : State) : Prop :=
  (s.up.offer = none ∧ s.dev.mode ≠ .draining) ∨ (s.responseHeld ∧ s.answersWait ∧ s.offerWaits ∧ s.drainWaits)

theorem State.Settled.calm (h : s.Settled) : s.Calm := .inr ⟨h.noted.response, h.answers, h.offer, h.drain⟩

/-- A state that differs at the timers and the ticks alone. -/
def TicksOnly (s v : State) : Prop :=
  v = { s with
    timebase := v.timebase, timerTicks := v.timerTicks, ageDue := v.ageDue, timers := v.timers
    deliveries := v.deliveries, cascades := v.cascades }

/-- A request that would be kept lacks what it lacks whatever its stream's window does. -/
theorem lacks_of_kept {r : Request} (horder : v.order = s.order) (hstore : v.store = s.store) (hwdb : v.wdb = s.wdb)
    (hk : v.admission r = .kept (v.classify r)) (hv : v.lacks r = Lacking.none) : s.lacks r = Lacking.none := by
  obtain ⟨ho, hs, hd⟩ := lacks_iff s r
  obtain ⟨ho', hs', hd'⟩ := lacks_iff v r
  have hused : v.bufferUsed = s.bufferUsed := by
    unfold State.bufferUsed
    rw [hwdb]
  rw [hv, horder] at ho'
  rw [hv, hstore] at hs'
  rw [hv, hused] at hd'
  have horder : (s.lacks r).order = false := Bool.eq_false_iff.mpr fun h => Bool.false_ne_true (ho'.mpr (ho.mp h))
  have hstore : (s.lacks r).store = false :=
    Bool.eq_false_iff.mpr fun h => Bool.false_ne_true (hs'.mpr ⟨hk, (hs.mp h).2⟩)
  have hdata : (s.lacks r).data = false :=
    Bool.eq_false_iff.mpr fun h => Bool.false_ne_true (hd'.mpr ⟨hk, (hd.mp h).2⟩)
  exact congr (congrArg₂ Lacking.mk horder hstore) hdata

/-- The judgements leave a calm state calm. -/
theorem judge_calm (h : e.st.Calm) : e.judge.Calm := by
  have hplan := judge_samePlan e
  rcases h with ⟨ho, hm⟩ | ⟨hr, ha, ho, hd⟩
  · left
    rw [judge_rest]
    exact ⟨ho, hm⟩
  · right
    refine ⟨?_, ?_, fun r hoff => ?_, ?_⟩
    · rw [judge_rest]
      exact hr
    · rw [judge_rest]
      exact ha
    · have hdev : e.judge.dev = e.st.dev := by rw [judge_rest]
      have hup : e.judge.up.offer = e.st.up.offer := by rw [judge_rest]
      rw [hdev]
      exact (ho r (hup ▸ hoff)).imp id fun hl => by
        rw [hplan.lacks r]
        exact hl
    · rw [judge_rest]
      exact hd

/-- With nothing on UP outside DRAINING an event brings fills about alone. -/
theorem close_free {jobs : List NoticeJob} (ho : v.up.offer = none) (hm : v.dev.mode ≠ .draining)
    (h : Leaves s ⟨v, jobs⟩) : Stays s (Ev.close ⟨v, jobs⟩) ∧ (Ev.close ⟨v, jobs⟩).Calm := by
  have hoffer : ∀ e : Ev, e.st.up.offer = none → e.fill.st.up.offer = none := fun e he => by
    rw [fill_rest]
    exact he
  have hd : (Ev.discardResponse ⟨v, jobs⟩).st.up.offer = none := by
    rw [discardResponse_rest]
    exact ho
  have hleaves := h.discarded.filled
  have hmode : (Ev.discardResponse ⟨v, jobs⟩).fill.st.dev.mode ≠ .draining := by
    rw [hleaves.dev, ← h.dev]
    exact hm
  have hbrings : (Ev.discardResponse ⟨v, jobs⟩).brings = (Ev.discardResponse ⟨v, jobs⟩).fill := by
    unfold Ev.brings
    rw [complete_of_waits (drainWaits_of_mode hmode), takeIfAble_of_waits (offerWaits_of_none (hoffer _ hd)), fill_fill]
  unfold Ev.close
  rw [hbrings]
  exact ⟨hleaves.judged, judge_calm (.inl ⟨hoffer _ hd, hmode⟩)⟩

/-- The end of an event that changed the timers alone: a request that no longer would be kept may be refused, and nothing
else comes about but the fills after it. -/
theorem close_stays {jobs : List NoticeJob} (hs : s.Calm) (hv : TicksOnly s v) (hj : NoticeJob.ageTick ∉ jobs) :
    Stays s (Ev.close ⟨v, jobs⟩) ∧ (Ev.close ⟨v, jobs⟩).Calm := by
  have hleaves : Leaves s ⟨v, jobs⟩ := ⟨by rw [hv], by rw [hv], by rw [hv], hj⟩
  rcases hs with ⟨ho, hm⟩ | ⟨hr, ha, ho, hd⟩
  · exact close_free (by rw [hv]; exact ho) (by rw [hv]; exact hm) hleaves
  · have hr' : v.responseHeld := by rw [hv]; exact hr
    have ha' : v.answersWait := by rw [hv]; exact ha
    have hd' : v.drainWaits := by rw [hv]; exact hd
    unfold Ev.close Ev.brings
    rw [discardResponse_held hr', fill_of_waits (e := ⟨v, jobs⟩) ha', complete_of_waits (e := ⟨v, jobs⟩) hd']
    rcases takeIfAble_cases ⟨v, jobs⟩ with ⟨hn, ht⟩ | ⟨r, hable, ht⟩ <;> rw [ht]
    · rw [fill_of_waits (e := ⟨v, jobs⟩) ha']
      exact ⟨hleaves.judged, judge_calm (.inr ⟨hr', ha', (takeable_none_iff v).mp hn, hd'⟩)⟩
    · obtain ⟨hoff, hmode, hlacks⟩ := takeable_some.mp hable
      have hkept : v.admission r ≠ .kept (v.classify r) := fun hk => by
        have hsoff : s.up.offer = some r := by rw [hv] at hoff; exact hoff
        have hsmode : s.dev.mode ≠ .draining := by rw [hv] at hmode; exact hmode
        rcases ho r hsoff with hm | hl
        · exact hsmode hm
        · exact hl (lacks_of_kept (by rw [hv]) (by rw [hv]) (by rw [hv]) hk hlacks)
      obtain ⟨htaken, hnone⟩ := hleaves.taken (r := r) hkept
      refine ⟨htaken.filled.judged, judge_calm (.inl ⟨?_, ?_⟩)⟩
      · rw [fill_rest]
        exact hnone
      · rw [htaken.filled.dev, ← hleaves.dev]
        exact hmode

/-! ### The ticks of the taps -/

theorem ticked_only (s : State) (k : Tap) : TicksOnly s (s.ticked k) := rfl

/-- The untaken ticks of the timers, taken as events, leave these blocks and the age tick. -/
theorem settleTimers_stays (l : List TimerId) (hs : s.Calm) :
    ∃ t, l.foldl Ev.settleTimer ⟨s, []⟩ = ⟨t, []⟩ ∧ Stays s t ∧ t.Calm ∧ (t.ageOwed ↔ s.ageOwed) := by
  induction l generalizing s with
  | nil => exact ⟨s, rfl, ⟨rfl, rfl, rfl⟩, hs, .rfl⟩
  | cons u l ih =>
    rw [List.foldl_cons]
    rcases settleTimer_cases ⟨s, []⟩ u with ⟨k, -, he⟩ | ⟨-, he⟩
    · rw [he, takeTap_eq]
      obtain ⟨hstays, hcalm⟩ := close_stays (jobs := [] ++ s.hitNotices (s.tapHit k)) hs (ticked_only s k)
        (hitNotices_untimed s _)
      obtain ⟨t, ht, hst, hc, ho⟩ := ih hcalm
      exact ⟨t, ht, hstays.trans hst, hc, ho.trans (close_ticks ⟨s.ticked k, [] ++ s.hitNotices (s.tapHit k)⟩).ageOwed⟩
    · rw [he]
      exact ih hs

/-- A period that begins while no age tick is untaken leaves these blocks. -/
theorem nextPeriod_stays (hs : s.Calm) (hn : ¬ s.ageOwed) :
    ∃ t, Ev.nextPeriod ⟨s, []⟩ = ⟨t.nextPeriod, []⟩ ∧ Stays s t ∧ t.Calm := by
  obtain ⟨t, ht, hstays, hcalm, ho⟩ := settleTimers_stays (List.finRange 4) hs
  refine ⟨t, ?_, hstays, hcalm⟩
  have hage : Ev.settleAge ⟨t, []⟩ = ⟨t, []⟩ := by
    obtain ⟨h, -⟩ | ⟨-, he⟩ := settleAge_cases ⟨t, []⟩
    · exact absurd (ho.mp h) hn
    · exact he
  unfold Ev.nextPeriod
  rw [ht, hage]
  exact congrArg (fun u => (⟨u, []⟩ : Ev)) (beginPeriod_eq t)

theorem nextPeriod_ticked_only (s : State) (k : Tap) : TicksOnly s (s.nextPeriod.ticked k) := rfl

/-- TAP_TICK, in every mode, unless it begins a period while an age tick is untaken. -/
theorem exec_tapTick_stays (hr : s.Ready) (h : ¬ s.ageOwed ∨ (∃ u, s.tickOwed k u) ∨ ¬ tapDue (s.timebase + 1) k) :
    ∃ t, exec (.tapTick k) s = .next t ∧ Stays s t := by
  rw [exec_tapTick, happen_open hr.released hr.settled.drain]
  refine ⟨_, rfl, ?_⟩
  obtain ⟨-, he⟩ | ⟨hno, hdue, he⟩ | ⟨-, -, he⟩ := tapTick_cases ⟨s, []⟩ k <;> rw [he]
  · rw [takeTap_eq]
    exact (close_stays hr.settled.calm (ticked_only s k) (hitNotices_untimed s _)).1
  · have hn : ¬ s.ageOwed := h.resolve_right fun h => h.elim (fun ⟨u, hu⟩ => hno u hu) fun hd => hd hdue
    obtain ⟨t, ht, hstays, hcalm⟩ := nextPeriod_stays hr.settled.calm hn
    rw [ht, takeTap_eq]
    exact hstays.trans (close_stays hcalm (nextPeriod_ticked_only t k) (hitNotices_untimed _ _)).1
  · rw [close_settled hr.settled]
    exact ⟨rfl, rfl, rfl⟩

end Sys2Proof.Machine

namespace Sys2Proof.Proofs

open Sys2Proof Sys2Proof.Machine

/-- Settles O28. -/
theorem ageTickAgesAndExpires : Obligations.AgeTickAgesAndExpires := by
  refine fun s hr => ⟨fun p hf hs hm => ?_, fun ho hn => ?_, fun k hk => ?_⟩
  · obtain ⟨t, ht, hends⟩ := exec_ageTick_open hr hf hs hm
    exact ⟨t, s.ageMarks, fun r hr => ageMarks_iff hs hr, ht, hends⟩
  · exact happen_idle hr (ageTickNext_none ho hn)
  · obtain ⟨t, ht, hstays⟩ := exec_tapTick_stays hr hk
    exact ⟨t, ht, by rw [hstays.store], hstays.dev, hstays.hold⟩

end Sys2Proof.Proofs
end

section
/-! The expiry of one record (R109, R110, R113). -/

namespace Sys2Proof.Machine

variable {s : State} {e : Ev} {r : StoreRec}

/-! ### The rows of one record -/

theorem expiresAs_iff (s : State) (d : Nat) (a : AgeAction) :
    s.expiresAs d a = true ↔ ∃ x ∈ s.store, x.draw = d ∧ x.age = some 1 ∧ (s.stream x.stream).live.ageAction = a := by
  unfold State.expiresAs StoreRec.lastTick
  simp only [List.any_eq_true, Bool.and_eq_true, beq_iff_eq, and_assoc]

theorem expireOne_none {d : Nat} {a : AgeAction}
    (h : ∀ x ∈ s.store, x.draw = d → x.age = some 1 → (s.stream x.stream).live.ageAction ≠ a) :
    Ev.expireOne ⟨s, []⟩ d a = ⟨s, []⟩ := by
  refine if_neg fun he => ?_
  obtain ⟨x, hx, hd, hage, ha⟩ := (expiresAs_iff s d a).mp he
  exact h x hx hd hage ha

theorem expireOne_due (hr : r ∈ s.store) (hage : r.age = some 1) :
    Ev.expireOne ⟨s, []⟩ r.draw (s.stream r.stream).live.ageAction =
      Ev.ageRecords ⟨s, []⟩ (fun x => x.draw == r.draw) :=
  if_pos ((expiresAs_iff s _ _).mpr ⟨r, hr, rfl, hage, rfl⟩)

/-- No other record has the row's drawing number. -/
theorem expireOne_other (hs : s.StoreMatches) (hr : r ∈ s.store) {a : AgeAction}
    (ha : (s.stream r.stream).live.ageAction ≠ a) : Ev.expireOne ⟨s, []⟩ r.draw a = ⟨s, []⟩ :=
  expireOne_none fun x hx hd _ => by
    rw [hs.eq_of_draw_eq hx hr hd]
    exact ha

/-- The expiries of an event leave a held response held. -/
theorem ageRecords_held (h : e.st.responseHeld) (sel : StoreRec → Bool) : (e.ageRecords sel).st.responseHeld := by
  refine responseHeld_map h (by rw [ageRecords_fields]) (by rw [ageRecords_fields]) (fun x => ?_)
    fun x hi => if_neg fun hq => ?_
  · split
    · next hq => rw [hq.1]; exact ⟨rfl, rfl⟩
    · exact ⟨rfl, rfl⟩
  · rw [hi] at hq
    exact EntryState.noConfusion hq.1

/-! ### What the expiry of one record counts -/

/-- A selection of a list in drawing order that picks one record. -/
theorem filter_eq_singleton {l : List StoreRec} (hl : l.Pairwise (fun a b => a.draw < b.draw)) (hr : r ∈ l)
    {p : StoreRec → Bool} (hp : ∀ x ∈ l, p x = true ↔ x = r) : l.filter p = [r] := by
  induction l with
  | nil => cases hr
  | cons a l ih =>
    obtain ⟨ha, hl⟩ := List.pairwise_cons.mp hl
    have hself : p r = true := (hp r hr).mpr rfl
    rcases List.mem_cons.mp hr with rfl | hmem
    · have hrest : l.filter p = [] := List.filter_eq_nil_iff.mpr fun x hx hpx => by
        have hlt := ha x hx
        rw [(hp x (List.mem_cons_of_mem _ hx)).mp hpx] at hlt
        exact Nat.lt_irrefl _ hlt
      rw [List.filter_cons, if_pos hself, hrest]
    · have hne : ¬ p a = true := fun hpa => by
        have hlt := ha r hmem
        rw [(hp a List.mem_cons_self).mp hpa] at hlt
        exact Nat.lt_irrefl _ hlt
      rw [List.filter_cons, if_neg hne, ih hl hmem fun x hx => hp x (List.mem_cons_of_mem _ hx)]

/-- What a row selects of the store (log 4): the record of its drawing number. -/
theorem sel_iff (hs : s.StoreMatches) (hr : r ∈ s.store) {x : StoreRec} (hx : x ∈ s.store) :
    (x.draw == r.draw) = true ↔ x = r :=
  ⟨fun h => hs.eq_of_draw_eq hx hr (beq_iff_eq.mp h), fun h => by rw [h]; exact beq_self_eq_true _⟩

theorem expiring_one (hs : s.StoreMatches) (hr : r ∈ s.store) (hage : r.age = some 1) (a : AgeAction) {x : StoreRec}
    (hx : x ∈ s.store) :
    s.expiring (fun x => x.draw == r.draw) a x = true ↔ x = r ∧ (s.stream r.stream).live.ageAction = a := by
  unfold State.expiring StoreRec.lastTick
  rw [Bool.and_eq_true, Bool.and_eq_true, sel_iff hs hr hx, beq_iff_eq, beq_iff_eq]
  constructor
  · rintro ⟨⟨rfl, -⟩, ha⟩
    exact ⟨rfl, ha⟩
  · rintro ⟨rfl, ha⟩
    exact ⟨⟨rfl, hage⟩, ha⟩

/-- The expiries of a row of one record. -/
theorem expired_one (hs : s.StoreMatches) (hr : r ∈ s.store) (hage : r.age = some 1) :
    s.store.filter (fun x => x.draw == r.draw && x.lastTick) = [r] := by
  refine filter_eq_singleton hs.store_rising hr fun x hx => ?_
  unfold StoreRec.lastTick
  rw [Bool.and_eq_true, sel_iff hs hr hx, beq_iff_eq]
  exact ⟨fun h => h.1, fun h => ⟨h, by rw [h, hage]⟩⟩

/-- The stream of the record counts one expiry (R109). -/
def State.expiryCounted (s : State) (n : StreamId) (u : State) : State :=
  { u with
    streams := updAt s.streams n (fun _ =>
      { s.stream n with
        counters := { (s.stream n).counters with expiredRequests := (s.stream n).counters.expiredRequests + 1 } }) }

theorem expired_streams (s : State) (r : StoreRec) :
    mapAll s.streams (fun n st => st.expired ([r].countP (fun x => x.stream == n))) =
      updAt s.streams r.stream (fun _ =>
        { s.stream r.stream with
          counters :=
            { (s.stream r.stream).counters with
              expiredRequests := (s.stream r.stream).counters.expiredRequests + 1 } }) := by
  refine table_ext fun n => ?_
  rw [cell_mapAll, cell_updAt]
  by_cases hn : r.stream = n
  · subst hn
    have hcount : [r].countP (fun x => x.stream == r.stream) = 1 := by simp
    rw [if_pos rfl, hcount]
    rfl
  · have hcount : [r].countP (fun x => x.stream == n) = 0 := by simp [hn]
    rw [if_neg hn, hcount]
    unfold Stream.expired
    rw [BitVec.add_zero]

theorem ageRecords_one_jobs (hs : s.StoreMatches) (hr : r ∈ s.store) (hage : r.age = some 1) :
    (Ev.ageRecords ⟨s, []⟩ (fun x => x.draw == r.draw)).jobs =
      [.occur { source := streamSource r.stream, cause := .expired }] := by
  unfold Ev.ageRecords
  dsimp only
  rw [expired_one hs hr hage]
  rfl

/-- The row of one record, with what it leaves of the pools. -/
theorem exec_expires {c : Instr} {u : State} (hready : s.Ready) (hs : s.StoreMatches) (hr : r ∈ s.store)
    (hage : r.age = some 1)
    (hc : exec c s = happen s (fun e => e.expireOne r.draw (s.stream r.stream).live.ageAction))
    (hst : (Ev.ageRecords ⟨s, []⟩ (fun x => x.draw == r.draw)).st = u) :
    ∃ t, exec c s = .next t ∧ Ends u [.occur { source := streamSource r.stream, cause := .expired }] t := by
  have hheld := ageRecords_held (e := ⟨s, []⟩) hready.settled.noted.response (fun x => x.draw == r.draw)
  rw [hst] at hheld
  rw [hc]
  refine event_ends hready.released hready.settled.drain ?_ hheld
  rw [expireOne_due hr hage, ← hst, ← ageRecords_one_jobs hs hr hage]

/-! ### Under FORCE (R110) -/

/-- The marks of a FORCE expiry of one record. -/
def State.forceMarks (s : State) (r x : StoreRec) : Bool :=
  closureMark (s.expiring (fun x => x.draw == r.draw) .force) s.store x

theorem forceMarks_iff (hs : s.StoreMatches) (hr : r ∈ s.store) (hage : r.age = some 1)
    (ha : (s.stream r.stream).live.ageAction = .force) {x : StoreRec} (hx : x ∈ s.store) :
    s.forceMarks r x = true ↔ InClosure s.store (fun y => y = r) x :=
  (closureMark_iff hs.store_rising hx).trans
    ⟨.seeds fun _ hy h => ((expiring_one hs hr hage .force hy).mp h).1,
      .seeds fun _ hy h => (expiring_one hs hr hage .force hy).mpr ⟨h, ha⟩⟩

theorem ageRecords_force (hs : s.StoreMatches) (hr : r ∈ s.store) (hage : r.age = some 1)
    (ha : (s.stream r.stream).live.ageAction = .force) :
    (Ev.ageRecords ⟨s, []⟩ (fun x => x.draw == r.draw)).st =
      s.expiryCounted r.stream
        { s with
          store := s.store.map (fun x =>
            { x with age := if x = r then some 0 else x.age, urgent := x.urgent || s.forceMarks r x }) } := by
  have hdrop : ∀ x ∈ s.store, ¬ s.expiring (fun x => x.draw == r.draw) .drop x = true := fun x hx h => by
    have hd := ((expiring_one hs hr hage .drop hx).mp h).2
    rw [ha] at hd
    cases hd
  have hgone : s.goneBy (fun x => x.draw == r.draw) = [] := List.filter_eq_nil_iff.mpr hdrop
  have hkept : s.store.filter (fun x => !s.expiring (fun x => x.draw == r.draw) .drop x) = s.store :=
    List.filter_eq_self.mpr fun x hx => by rw [Bool.eq_false_iff.mpr (hdrop x hx)]; rfl
  have hstore : (urgencyClosure (s.expiring (fun x => x.draw == r.draw) .force) s.store).map
      (StoreRec.agedBy (fun x => x.draw == r.draw)) =
      s.store.map (fun x =>
        { x with age := if x = r then some 0 else x.age, urgent := x.urgent || s.forceMarks r x }) := by
    rw [aged_store hs.store_rising]
    refine List.map_congr_left fun x hx => ?_
    unfold StoreRec.agedBy
    by_cases hxr : x = r
    · subst hxr
      simp only [beq_self_eq_true, if_true, StoreRec.age1, hage]
      rfl
    · have hsel : ¬ (x.draw == r.draw) = true := fun h => hxr ((sel_iff hs hr hx).mp h)
      simp only [hsel, hxr, if_false]
      rfl
  rw [ageRecords_fields]
  dsimp only
  rw [hgone, hkept, hstore, expired_one hs hr hage, expired_streams]
  simp [State.expiryCounted]

/-! ### Under DROP (R113) -/

/-- A closure with a member has a seed. -/
theorem InClosure.exists_seed {store : List StoreRec} {seed : StoreRec → Prop} {x : StoreRec}
    (h : InClosure store seed x) : ∃ y ∈ store, seed y := by
  induction h with
  | seed y hy hs => exact ⟨y, hy, hs⟩
  | ahead _ _ _ _ _ _ ih => exact ih

theorem ageRecords_drop (hs : s.StoreMatches) (hr : r ∈ s.store) (hage : r.age = some 1)
    (ha : (s.stream r.stream).live.ageAction = .drop) :
    (Ev.ageRecords ⟨s, []⟩ (fun x => x.draw == r.draw)).st =
      s.expiryCounted r.stream
        { s with
          store := s.store.filter (fun x => x.draw ≠ r.draw)
          order := s.order.map (fun e => if e.draw = r.draw then { e with state := .made .expired false } else e)
          wdb := s.wdb.filter (fun a => r.writeRef ≠ some a.key) } := by
  have hgone : s.goneBy (fun x => x.draw == r.draw) = [r] :=
    filter_eq_singleton hs.store_rising hr fun x hx => (expiring_one hs hr hage .drop hx).trans
      ⟨fun h => h.1, fun h => ⟨h, ha⟩⟩
  have hkept : s.store.filter (fun x => !s.expiring (fun x => x.draw == r.draw) .drop x) =
      s.store.filter (fun x => x.draw ≠ r.draw) := by
    refine List.filter_congr fun x hx => ?_
    rw [Bool.eq_iff_iff, Bool.not_eq_true', Bool.eq_false_iff, ne_eq, expiring_one hs hr hage .drop hx, decide_eq_true_iff]
    exact not_congr ⟨fun h => by rw [h.1], fun h => ⟨hs.eq_of_draw_eq hx hr h, ha⟩⟩
  have hrising : (s.store.filter (fun x => decide (x.draw ≠ r.draw))).Pairwise (fun a b => a.draw < b.draw) :=
    hs.store_rising.sublist List.filter_sublist
  have hunmarked : ∀ x ∈ s.store.filter (fun x => decide (x.draw ≠ r.draw)),
      closureMark (s.expiring (fun x => x.draw == r.draw) .force)
        (s.store.filter (fun x => decide (x.draw ≠ r.draw))) x = false := fun x hx => by
    refine Bool.eq_false_iff.mpr fun hmark => ?_
    obtain ⟨y, hy, h⟩ := ((closureMark_iff hrising hx).mp hmark).exists_seed
    have hf := ((expiring_one hs hr hage .force (List.mem_of_mem_filter hy)).mp h).2
    rw [ha] at hf
    cases hf
  have hstore : (urgencyClosure (s.expiring (fun x => x.draw == r.draw) .force)
      (s.store.filter (fun x => decide (x.draw ≠ r.draw)))).map (StoreRec.agedBy (fun x => x.draw == r.draw)) =
      s.store.filter (fun x => decide (x.draw ≠ r.draw)) := by
    rw [aged_store hrising]
    refine (List.map_congr_left fun x hx => ?_).trans (List.map_id _)
    have hsel : ¬ (x.draw == r.draw) = true := fun h => by
      have hne := of_decide_eq_true (List.mem_filter.mp hx).2
      exact hne (beq_iff_eq.mp h)
    unfold StoreRec.agedBy
    simp only [hsel, hunmarked x hx, Bool.or_false]
    rfl
  have horder : s.order.map (fun x =>
      if x.state = .queued ∧ [r].any (fun y => y.draw == x.draw) then { x with state := .made .expired false } else x) =
      s.order.map (fun e => if e.draw = r.draw then { e with state := .made .expired false } else e) := by
    obtain ⟨m, hm, hq, hshared⟩ := hs.entry_of_record hr
    have hdraw : m.draw = r.draw := congrArg Shared.draw hshared
    refine List.map_congr_left fun x hx => ?_
    by_cases hd : x.draw = r.draw
    · have hxm : x = m := hs.entry_eq hx hm (hd.trans hdraw.symm)
      rw [if_pos hd, if_pos ⟨by rw [hxm]; exact hq, by simp [hd]⟩]
    · rw [if_neg hd, if_neg]
      rintro ⟨-, hany⟩
      rw [List.any_cons, List.any_nil, Bool.or_false, beq_iff_eq] at hany
      exact hd hany.symm
  have hwdb : s.wdb.filter (fun a => !([r].any (fun y => y.writeRef == some a.key))) =
      s.wdb.filter (fun a => r.writeRef ≠ some a.key) := by
    refine List.filter_congr fun a _ => ?_
    simp [Bool.beq_eq_decide_eq]
  rw [ageRecords_fields]
  dsimp only
  rw [hgone, hkept, hstore, horder, hwdb, expired_one hs hr hage, expired_streams]
  rfl

end Sys2Proof.Machine

namespace Sys2Proof.Proofs

open Sys2Proof Sys2Proof.Machine

/-- Settles O29. -/
theorem oneRecordExpires : Obligations.OneRecordExpires := by
  refine ⟨fun s draw hr => ⟨fun h => ?_, fun h => ?_⟩, fun s r hready hs hr hage => ⟨fun ha => ⟨?_, ?_⟩, fun ha => ⟨?_, ?_⟩⟩⟩
  · exact happen_idle (f := fun e => e.expireOne draw .force) hr (expireOne_none h)
  · exact happen_idle (f := fun e => e.expireOne draw .drop) hr (expireOne_none h)
  · exact happen_idle (f := fun e => e.expireOne r.draw .drop) hready
      (expireOne_other hs hr (by rw [ha]; exact AgeAction.noConfusion))
  · obtain ⟨t, ht, hends⟩ := exec_expires (c := .forceExpiry r.draw) hready hs hr hage
      (by rw [ha]; exact exec_forceExpiry r.draw s) (ageRecords_force hs hr hage ha)
    exact ⟨t, s.forceMarks r, fun x hx => forceMarks_iff hs hr hage ha hx, ht, hends⟩
  · exact happen_idle (f := fun e => e.expireOne r.draw .force) hready
      (expireOne_other hs hr (by rw [ha]; exact AgeAction.noConfusion))
  · exact exec_expires (c := .dropExpiry r.draw) hready hs hr hage
      (by rw [ha]; exact exec_dropExpiry r.draw s) (ageRecords_drop hs hr hage ha)

end Sys2Proof.Proofs
end

section
/-! SPI frames (12.1): their start, header and end, and what SDO carries. -/

namespace Sys2Proof.Machine

variable {s : State} {h : Header}

/-! ### The status byte (R180) -/

/-- The bits of a byte laid out as the status byte is. -/
theorem statusBits_read : ∀ (d r i u : Bool) (c : BitVec 3),
    let b : BitVec 8 := BitVec.ofBool d ++ BitVec.ofBool r ++ BitVec.ofBool i ++ BitVec.ofBool u ++ 0#1 ++ c
    b.getLsbD 7 = d ∧ b.getLsbD 6 = r ∧ b.getLsbD 5 = i ∧ b.getLsbD 4 = u ∧ b.toNat % 16 = c.toNat := by
  decide

theorem status_bits (s : State) :
    (s.status.getLsbD 7 = true ↔ s.dev.mode = .draining) ∧ (s.status.getLsbD 6 = true ↔ s.dev.mode = .regulate) ∧
      s.status.getLsbD 5 = s.nt.irq ∧ s.status.getLsbD 4 = s.nt.urg ∧ s.status.toNat % 16 = s.mgmt.lastError.code.toNat := by
  obtain ⟨hd, hr, hi, hu, hc⟩ := statusBits_read (s.dev.mode == .draining) (s.dev.mode == .regulate) s.nt.irq s.nt.urg
    s.mgmt.lastError.code
  refine ⟨?_, ?_, hi, hu, hc⟩
  · exact (congrArg (· = true) hd).to_iff.trans beq_iff_eq
  · exact (congrArg (· = true) hr).to_iff.trans beq_iff_eq

/-! ### The frame (R180, R181, R184) -/

/-- An event at the management port alone leaves nothing to judge anew. -/
theorem happen_mgmt {f : Ev → Ev} {m : Mgmt} (hr : s.Ready) (hf : f ⟨s, []⟩ = ⟨s.setMgmt m, []⟩) :
    happen s f = .next { s with mgmt := m } :=
  event_settled hr.released hr.settled.drain hf (hr.settled.other rfl hr.settled.noted.presented)

theorem exec_frameStart_open (hr : s.Ready) : exec .spiFrameStart s = happen s Ev.frameBegins :=
  (exec_spiFrameStart s).trans (if_neg (by rw [hr.released]; exact Bool.false_ne_true))

theorem exec_frameBegins (hr : s.Ready) (hs : s.mgmt.selected = false) :
    exec .spiFrameStart s = .next
      { s with
        mgmt := { s.mgmt with selected := true, frame := .header, statusByte := s.status, lastError := .none } } := by
  rw [exec_frameStart_open hr]
  exact happen_mgmt (f := Ev.frameBegins) hr (if_neg (by dsimp only; rw [hs]; exact Bool.false_ne_true))

theorem exec_frameBegins_none (hr : s.Ready) (hs : s.mgmt.selected = true) : exec .spiFrameStart s = .next s := by
  rw [exec_frameStart_open hr]
  exact happen_idle hr (if_pos hs)

theorem header_read {e : Ev} (hf : e.st.mgmt.frame = .header) (hb : h.byte = 0xC5#8) :
    e.header h = e.setFrame (.turnaround (h.high ++ h.low)) := by
  obtain ⟨hn, -⟩ | ⟨-, ⟨-, he⟩ | ⟨hw, -⟩ | ⟨hr, -, -⟩⟩ := header_cases e h
  · exact absurd hf hn
  · exact he
  · rw [hb] at hw
    exact absurd hw (by decide)
  · exact absurd hb hr

theorem header_write {e : Ev} (hf : e.st.mgmt.frame = .header) (hb : h.byte = 0xCA#8) :
    e.header h = e.setFrame (.writing (h.high ++ h.low)) := by
  obtain ⟨hn, -⟩ | ⟨-, ⟨hr, -⟩ | ⟨-, he⟩ | ⟨-, hw, -⟩⟩ := header_cases e h
  · exact absurd hf hn
  · rw [hb] at hr
    exact absurd hr (by decide)
  · exact he
  · exact absurd hb hw

theorem header_unknown {e : Ev} (hf : e.st.mgmt.frame = .header) (hr : h.byte ≠ 0xC5#8) (hw : h.byte ≠ 0xCA#8) :
    e.header h = ((e.record .frame).raise 23 .mgmtFrame).setFrame .ignored := by
  obtain ⟨hn, -⟩ | ⟨-, ⟨hb, -⟩ | ⟨hb, -⟩ | ⟨-, -, he⟩⟩ := header_cases e h
  · exact absurd hf hn
  · exact absurd hb hr
  · exact absurd hb hw
  · exact he

theorem header_elsewhere {e : Ev} (hf : e.st.mgmt.frame ≠ .header) : e.header h = e := if_neg hf

/-- The header of an unknown operation. -/
theorem exec_header_unknown (hready : s.Ready) (hr : h.byte ≠ 0xC5#8) (hw : h.byte ≠ 0xCA#8) (hf : s.mgmt.frame = .header) :
    ∃ nt k, s.nt.Takes [.occur { source := 23, cause := .mgmtFrame }] nt ∧
      exec (.unknownOperation h) s = .next
        { s with nt := nt, mgmt := { s.mgmt with lastError := .frame, frame := .ignored }, freeCount := k } :=
  event_settled_jobs (f := fun e => e.header h) (u := s.setMgmt { s.mgmt with lastError := .frame, frame := .ignored })
    hready.released hready.settled.drain (header_unknown (e := ⟨s, []⟩) hf hr hw)
    (hready.settled.other rfl hready.settled.noted.presented)

/-- A rise of CSn is reported only part-way through a part of the frame. -/
theorem cutShort_iff (f : SpiFrame) (cut : FrameCut) :
    f.cutShort cut = true ↔ cut = .partway ∧ f.cutShort .partway = true := by
  cases cut with
  | between => exact ⟨fun h => absurd h Bool.false_ne_true, fun h => FrameCut.noConfusion h.1⟩
  | partway => exact ⟨fun h => ⟨rfl, h⟩, fun h => h.2⟩

theorem exec_frameEnds (hr : s.Ready) (cut : FrameCut) :
    exec (.spiFrameEnd cut) s = .next
      { s with
        mgmt :=
          { s.mgmt with
            selected := false, frame := .none
            lastError := if s.mgmt.frame.cutShort cut = true then .frame else s.mgmt.lastError } } := by
  refine ((exec_spiFrameEnd cut s).trans (if_neg (by rw [hr.released]; exact Bool.false_ne_true))).trans ?_
  refine happen_mgmt (f := fun e => e.frameEnds cut) hr ?_
  unfold Ev.frameEnds
  by_cases hc : s.mgmt.frame.cutShort cut = true
  · rw [if_pos hc, if_pos hc]
    rfl
  · rw [if_neg hc, if_neg hc]
    rfl

/-! ### SDO (R180, R181, R183) -/

theorem sdo_undriven (h : s.mgmt.selected = false) : s.sdo = none := by
  unfold State.sdo
  rw [h, Bool.not_false, Bool.or_true]
  rfl

theorem sdo_driven (hr : s.inReset = false) (h : s.mgmt.selected = true) :
    s.sdo = some (match s.mgmt.frame with
      | .none => [Config.unframedByte]
      | .header => [s.mgmt.statusByte, 0, 0]
      | .turnaround _ => [0]
      | .reading _ => wordBytes s.mgmt.readWord
      | .writing _ => [0, 0, 0, 0]
      | .ignored => [0]) := by
  unfold State.sdo
  rw [hr, h]
  rfl

/-- The bytes of a word make up the word. -/
theorem wordBytes_join (w : Word) :
    w.extractLsb' 24 8 ++ (w.extractLsb' 16 8 ++ (w.extractLsb' 8 8 ++ w.extractLsb' 0 8)) = w := by
  rw [BitVec.extractLsb'_append_extractLsb'_eq_extractLsb' (by decide),
    BitVec.extractLsb'_append_extractLsb'_eq_extractLsb' (by decide),
    BitVec.extractLsb'_append_extractLsb'_eq_extractLsb' (by decide)]
  exact BitVec.extractLsb'_eq_self

end Sys2Proof.Machine

namespace Sys2Proof.Proofs

open Sys2Proof Sys2Proof.Machine

/-- Settles O36. -/
theorem spiFrames : Obligations.SpiFrames := by
  refine fun s hr => ⟨fun hs => ⟨s.status, exec_frameBegins hr hs, ?_⟩, fun hs => exec_frameBegins_none hr hs,
    fun h hf => ⟨fun hb => ?_, fun hb => ?_⟩, fun h hrd hw hf => exec_header_unknown hr hrd hw hf, fun h hf => ?_,
    fun cut => ?_, fun hf a v => ⟨?_, ?_⟩, fun hs => sdo_undriven hs, fun hs => ⟨fun hf => ?_, fun a hf => ?_, fun a hf => ?_,
    fun a hf => ?_, fun hf => ?_⟩⟩
  · obtain ⟨h7, h6, h5, h4, hcode⟩ := status_bits s
    refine ⟨h7, h6, h5, h4, hcode.trans ?_⟩
    cases s.mgmt.lastError <;> rfl
  · exact happen_mgmt (f := fun e => e.header h) hr (header_read (e := ⟨s, []⟩) hf hb)
  · exact happen_mgmt (f := fun e => e.header h) hr (header_write (e := ⟨s, []⟩) hf hb)
  · exact happen_idle (f := fun e => e.header h) hr (header_elsewhere (e := ⟨s, []⟩) hf)
  · intro reported
    have hcut : (if s.mgmt.frame.cutShort cut = true then MgmtError.frame else s.mgmt.lastError) =
        if cut = .partway ∧ reported = true then .frame else s.mgmt.lastError :=
      if_congr (cutShort_iff s.mgmt.frame cut) rfl rfl
    rw [exec_frameEnds hr, hcut]
  · exact exec_word_elsewhere (c := .registerWrite a v) rfl hr (by rw [hf]; exact SpiFrame.noConfusion)
  · rw [exec_unmappedRead]
    exact happen_idle hr (readWord_elsewhere (by rw [hf]; exact SpiFrame.noConfusion) (by rw [hf]; exact SpiFrame.noConfusion))
  · rw [sdo_driven hr.released hs, hf]
  · rw [sdo_driven hr.released hs, hf]
  · rw [sdo_driven hr.released hs, hf]
  · rw [sdo_driven hr.released hs, hf]
    exact ⟨_, _, _, _, rfl, wordBytes_join _⟩
  · rw [sdo_driven hr.released hs, hf]

end Sys2Proof.Proofs
end

section
/-! Reads of the register window (12.3, 12.5, 12.6): what a word captures, block by block. -/

namespace Sys2Proof.Machine

variable {s : State} {b : WordAddr}

/-! ### The capture of a word (R183) -/

/-- A read word at an address gives a word and leaves an error code. -/
def State.Gives (s : State) (a : WordAddr) (w : Word) (e : MgmtError) : Prop :=
  ∀ f : SpiFrame, f = .turnaround a ∨ f = .reading a →
    exec (.unmappedRead a) { s with mgmt := { s.mgmt with frame := f } } =
      .next { s with mgmt := { s.mgmt with readWord := w, lastError := e, frame := .reading (a + 1) } }

/-- No word of the window tells the state of the frame. -/
theorem wordAt_frame (s : State) (f : SpiFrame) (a : WordAddr) :
    (s.setMgmt { s.mgmt with frame := f }).wordAt a = s.wordAt a := rfl

theorem exec_readWord (hr : s.Ready) {f : SpiFrame} {a : WordAddr} (hf : f = .turnaround a ∨ f = .reading a) {m : Mgmt}
    (hcap : Ev.capture ⟨s.setMgmt { s.mgmt with frame := f }, []⟩ a = ⟨s.setMgmt m, []⟩) :
    exec (.unmappedRead a) { s with mgmt := { s.mgmt with frame := f } } = .next { s with mgmt := m } := by
  have hsettled : (s.setMgmt { s.mgmt with frame := f }).Settled := hr.settled.other rfl hr.settled.noted.presented
  have hready : (s.setMgmt { s.mgmt with frame := f }).Ready := ⟨hr.released, hsettled⟩
  have hread : Ev.readWord ⟨s.setMgmt { s.mgmt with frame := f }, []⟩ a = ⟨s.setMgmt m, []⟩ := (if_pos hf).trans hcap
  exact (exec_unmappedRead a _).trans
    (happen_mgmt (s := s.setMgmt { s.mgmt with frame := f }) (f := fun e => e.readWord a) hready hread)

theorem gives_word (hr : s.Ready) {a : WordAddr} {w : Word} (h : s.wordAt a = some w) : s.Gives a w s.mgmt.lastError := by
  refine fun f hf => exec_readWord hr hf ?_
  unfold Ev.capture
  dsimp only
  rw [wordAt_frame, h]
  rfl

theorem gives_unmapped (hr : s.Ready) {a : WordAddr} (h : s.wordAt a = none) : s.Gives a 0 .addr := by
  refine fun f hf => exec_readWord hr hf ?_
  unfold Ev.capture
  dsimp only
  rw [wordAt_frame, h]
  rfl

/-! ### The words of a block -/

/-- The words of a block read as a list of numbers. -/
def State.ReadsBlock (s : State) (a : Nat) (l : List Nat) : Prop :=
  ∀ i w, l[i]? = some w → s.Gives (BitVec.ofNat 16 (a + i)) (BitVec.ofNat 32 w) s.mgmt.lastError

theorem readsBlock (hr : s.Ready) {a k : Nat} {l : List Nat} (hk : l.length = k) (hl : a + k ≤ 2 ^ 16)
    (h : ∀ i < k, ∀ b : WordAddr, b.toNat = a + i → s.wordAt b = l[i]?.map (BitVec.ofNat 32)) :
    s.ReadsBlock a l := by
  intro i w hw
  have hi : i < k := hk ▸ (List.getElem?_eq_some_iff.mp hw).1
  refine gives_word hr ?_
  rw [h i hi _ (ofNat_addr_toNat (by omega)), hw]
  rfl

theorem wordAt_device (h : b.toNat < 0x10) : s.wordAt b = (s.deviceWord b.toNat).map (BitVec.ofNat 32) := if_pos h

theorem wordAt_staging {o : Nat} (h : b.toNat = 0x020 + o) (ho : o < 0x20) :
    s.wordAt b = (stagingAt o).map (fun f => BitVec.ofNat 32 (s.staging.read f)) := by
  have hoffset : 0x020 + o - 0x020 = o := by omega
  unfold State.wordAt
  rw [h]
  dsimp only
  rw [if_neg (by omega), if_neg (by omega), if_pos (by omega), hoffset]

theorem wordAt_matchList (i : Fin 32) {o : Nat} (h : b.toNat = 0x040 + 4 * i.val + o) (ho : o < 4) :
    s.wordAt b = some (BitVec.ofNat 32 ((cell s.matchList i).word o)) := by
  have hi := i.isLt
  have hblock : Fin.ofNat 32 ((0x040 + 4 * i.val + o - 0x040) / 4) = i := Fin.ext (by rw [Fin.val_ofNat]; omega)
  have hoffset : (0x040 + 4 * i.val + o - 0x040) % 4 = o := by omega
  unfold State.wordAt
  rw [h]
  dsimp only
  rw [if_neg (by omega), if_neg (by omega), if_neg (by omega), if_pos (by omega), hblock, hoffset]

theorem wordAt_stream (n : StreamId) {o : Nat} (h : b.toNat = 0x100 + 0x40 * n.val + o) (ho : o < 0x40) :
    s.wordAt b = s.streamWord n o := by
  have hn := n.isLt
  have hblock : Fin.ofNat 16 ((0x100 + 0x40 * n.val + o - 0x100) / 0x40) = n := Fin.ext (by rw [Fin.val_ofNat]; omega)
  have hoffset : (0x100 + 0x40 * n.val + o - 0x100) % 0x40 = o := by omega
  unfold State.wordAt
  rw [h]
  dsimp only
  rw [if_neg (by omega), if_neg (by omega), if_neg (by omega), if_neg (by omega), if_neg (by omega), if_pos (by omega),
    hblock, hoffset]

theorem wordAt_timer (t : TimerId) {o : Nat} (h : b.toNat = 0x500 + 8 * t.val + o) (ho : o < 8) :
    s.wordAt b = ((s.timer t).word o).map (BitVec.ofNat 32) := by
  have ht := t.isLt
  have hblock : Fin.ofNat 4 ((0x500 + 8 * t.val + o - 0x500) / 8) = t := Fin.ext (by rw [Fin.val_ofNat]; omega)
  have hoffset : (0x500 + 8 * t.val + o - 0x500) % 8 = o := by omega
  unfold State.wordAt
  rw [h]
  dsimp only
  rw [if_neg (by omega), if_neg (by omega), if_neg (by omega), if_neg (by omega), if_neg (by omega), if_neg (by omega),
    if_pos (by omega), hblock, hoffset]

theorem wordAt_notice (x : NoticeId) {o : Nat} (h : b.toNat = 0x600 + 8 * x.val + o) (ho : o < 8) :
    s.wordAt b = ((cell s.nt.sources x).word o).map (BitVec.ofNat 32) := by
  have hx := x.isLt
  have hblock : Fin.ofNat 24 ((0x600 + 8 * x.val + o - 0x600) / 8) = x := Fin.ext (by rw [Fin.val_ofNat]; omega)
  have hoffset : (0x600 + 8 * x.val + o - 0x600) % 8 = o := by omega
  unfold State.wordAt
  rw [h]
  dsimp only
  rw [if_neg (by omega), if_neg (by omega), if_neg (by omega), if_neg (by omega), if_neg (by omega), if_neg (by omega),
    if_neg (by omega), if_neg (by omega), if_pos (by omega), hblock, hoffset]

theorem wordAt_status {o : Nat} (h : b.toNat = 0x700 + o) (ho : o < 0x80) :
    s.wordAt b = (s.nt.statusWord o).map (BitVec.ofNat 32) := by
  have hoffset : 0x700 + o - 0x700 = o := by omega
  unfold State.wordAt
  rw [h]
  dsimp only
  rw [if_neg (by omega), if_neg (by omega), if_neg (by omega), if_neg (by omega), if_neg (by omega), if_neg (by omega),
    if_neg (by omega), if_neg (by omega), if_neg (by omega), if_neg (by omega), if_pos (by omega), hoffset]

theorem wordAt_snapshot {o : Nat} (h : b.toNat = 0x780 + o) (ho : o < 0xB) : s.wordAt b = s.mgmt.snapshot.word o := by
  have hoffset : 0x780 + o - 0x780 = o := by omega
  unfold State.wordAt
  rw [h]
  dsimp only
  rw [if_neg (by omega), if_neg (by omega), if_neg (by omega), if_neg (by omega), if_neg (by omega), if_neg (by omega),
    if_neg (by omega), if_neg (by omega), if_neg (by omega), if_neg (by omega), if_neg (by omega), if_pos (by omega), hoffset]

/-! ### The fields of each block (12.3) -/

/-- The device group as numbers. -/
def State.deviceWords (s : State) : List Nat :=
  [s.dev.mode.code, 0, s.mgmt.cmdResult.code, s.nt.clearStyle.code, s.nt.threshold.val, s.nt.topNotice, s.ageTap.val,
    s.dev.drainLimit, s.nt.limit, winSelectCode (cell s.winSelect 0), winSelectCode (cell s.winSelect 1),
    winSelectCode (cell s.winSelect 2), winSelectCode (cell s.winSelect 3), s.storeOccupancy, s.orderOccupancy,
    s.bufferUsed]

theorem deviceWords_get (s : State) {i : Nat} (hi : i < 16) : s.deviceWords[i]? = s.deviceWord i := by
  interval_cases i <;> rfl

/-- A match rule as the numbers of the staging entry. -/
def MatchRule.words (m : MatchRule) : List Nat :=
  [m.sourceValue.toNat, m.sourceMask.toNat, m.kind.code, m.pageBase.toNat, m.pageLimit.toNat, m.stream.val]

theorem MatchRule.words_get (m : MatchRule) {i : Nat} (hi : i < 6) : m.words[i]? = (stagingAt i).map m.read := by
  interval_cases i <;> rfl

/-- The readback of a match list entry as numbers. -/
def MatchEntry.words (e : MatchEntry) : List Nat := [e.word 0, e.word 1, e.word 2, e.word 3]

theorem MatchEntry.words_get (e : MatchEntry) {i : Nat} (hi : i < 4) : e.words[i]? = some (e.word i) := by
  interval_cases i <;> rfl

/-- A parameter set as numbers. -/
def Params.words (p : Params) : List Nat :=
  [p.policy.code, p.timer.val, p.windowStart, p.windowEnd, p.reload, p.creditMode.code, p.cap, p.holdLimit, p.issueLimit,
    p.ageLimit, p.ageAction.code, p.priority.val]

theorem Params.words_get (p : Params) {i : Nat} (hi : i < 12) : p.words[i]? = (paramAt i).map p.read := by
  interval_cases i <;> rfl

/-- The counters as numbers. -/
def Counters.words (c : Counters) : List Nat :=
  [c.issuedRequests.toNat, c.issuedBeats.toNat, c.excessBeats.toNat, c.waitedRequests.toNat, c.refusedRequests.toNat,
    c.expiredRequests.toNat, c.memoryErrors.toNat]

theorem Counters.words_get (c : Counters) {i : Nat} (hi : i < 7) : c.words[i]?.map (BitVec.ofNat 32) = c.word i := by
  have hword : ∀ w : Word, BitVec.ofNat 32 w.toNat = w := fun w => (BitVec.ofNat_toNat 32 w).trans (BitVec.setWidth_eq w)
  interval_cases i <;> exact congrArg some (hword _)

/-- The state of a stream as numbers: credit, issue count, queue length and flags. -/
def State.streamWords (s : State) (n : StreamId) : List Nat :=
  [(s.stream n).credit, (s.stream n).issueCount, (s.queue n).length,
    flagCode ((s.stream n).mode == .on) + 2 * flagCode (s.stream n).pendingValid + 4 * flagCode (s.stream n).noted]

theorem streamWords_get (s : State) (n : StreamId) {i : Nat} (hi : i < 4) :
    (s.streamWords n)[i]?.map (BitVec.ofNat 32) = s.streamWord n (0x20 + i) := by
  interval_cases i <;> rfl

/-- A timer block as numbers. -/
def Timer.words (x : Timer) : List Nat :=
  [x.state.code, x.count, x.frameLength, x.pendingLength, flagCode x.pendingValid, x.clock.code, x.sync.code]

theorem Timer.words_get (x : Timer) {i : Nat} (hi : i < 7) : x.words[i]? = x.word i := by
  interval_cases i <;> rfl

/-- The block of a notice source as numbers. -/
def NoticeSource.words (q : NoticeSource) : List Nat :=
  [q.causes.toNat, flagCode q.enable, q.level.val, q.route.code, flagCode q.notifyAfter]

theorem NoticeSource.words_get (q : NoticeSource) {i : Nat} (hi : i < 5) : q.words[i]? = q.word i := by
  interval_cases i <;> rfl

/-- The handshake status as numbers. -/
def Notices.statusWords (nt : Notices) : List Nat :=
  [nt.port.code, nt.queue.length, match nt.queue with | e :: _ => e.source.val | [] => 31]

theorem Notices.statusWords_get (nt : Notices) {i : Nat} (hi : i < 3) : nt.statusWords[i]? = nt.statusWord i := by
  interval_cases i
  · rfl
  · rfl
  · unfold Notices.statusWords Notices.statusWord
    cases nt.queue <;> rfl

/-- The snapshot record as numbers. -/
def Snapshot.words (r : Snapshot) : List Nat :=
  (flagCode r.valid * 2 ^ 31 + r.stream.val) :: r.counters.words ++ [r.credit, r.queueLength, r.issueCount]

theorem Snapshot.words_get (r : Snapshot) {i : Nat} (hi : i < 11) : r.words[i]?.map (BitVec.ofNat 32) = r.word i := by
  have hcounters : ∀ o < 7, r.words[o + 1]? = r.counters.words[o]? := fun o ho => by interval_cases o <;> rfl
  by_cases hc : 1 ≤ i ∧ i ≤ 7
  · obtain ⟨o, rfl⟩ : ∃ o, i = o + 1 := ⟨i - 1, by omega⟩
    have hword : r.word (o + 1) = r.counters.word o := by
      unfold Snapshot.word
      rw [if_neg (by omega), if_pos hc.2, Nat.add_sub_cancel]
    rw [hcounters o (by omega), Counters.words_get _ (by omega), hword]
  · have hcases : i = 0 ∨ i = 8 ∨ i = 9 ∨ i = 10 := by omega
    rcases hcases with rfl | rfl | rfl | rfl <;> rfl

/-! ### The addresses that name no field -/

/-- A search of the counters finds one of seven. -/
theorem Counters.word_eq_none {c : Counters} {i : Nat} : c.word i = none ↔ 7 ≤ i := by
  by_cases hi : i < 7
  · interval_cases i <;> exact iff_of_false (Option.some_ne_none _) (by decide)
  · obtain ⟨j, rfl⟩ : ∃ j, i = j + 7 := ⟨i - 7, by omega⟩
    exact iff_of_true rfl (by omega)

theorem streamWord_eq_none (s : State) (n : StreamId) (o : Nat) :
    s.streamWord n o = none ↔
      ¬ (o ≤ 0xB ∨ (0x10 ≤ o ∧ o ≤ 0x1B) ∨ (0x20 ≤ o ∧ o ≤ 0x23) ∨ (0x28 ≤ o ∧ o ≤ 0x2E)) := by
  have hparam : ∀ j, paramAt j = none ↔ ¬ j ≤ 0xB := fun j => not_iff_comm.mp paramAt_ne_none |>.symm
  unfold State.streamWord
  dsimp only
  split_ifs
  · rw [Option.map_eq_none_iff, hparam]
    omega
  · rw [Option.map_eq_none_iff, hparam]
    omega
  · exact iff_of_false not_false (by omega)
  · exact iff_of_false not_false (by omega)
  · exact iff_of_false not_false (by omega)
  · exact iff_of_false not_false (by omega)
  · exact iff_of_true rfl (by omega)
  · rw [Counters.word_eq_none]
    omega

theorem Timer.word_eq_none (x : Timer) {o : Nat} (h : o < 8) : x.word o = none ↔ ¬ o ≤ 6 := by
  interval_cases o <;> simp [Timer.word]

theorem NoticeSource.word_eq_none (q : NoticeSource) {o : Nat} (h : o < 8) : q.word o = none ↔ ¬ o ≤ 4 := by
  interval_cases o <;> simp [NoticeSource.word]

theorem statusWord_above {nt : Notices} {o : Nat} (h : 3 ≤ o) : nt.statusWord o = none := by
  unfold Notices.statusWord
  split <;> [omega; omega; omega; rfl]

/-- A gap of the window names no field. -/
theorem wordAt_gap
    (h : (0x010 ≤ b.toNat ∧ b.toNat < 0x020) ∨ (0x026 ≤ b.toNat ∧ b.toNat < 0x040) ∨
      (0x0C0 ≤ b.toNat ∧ b.toNat < 0x100) ∨ (0x520 ≤ b.toNat ∧ b.toNat < 0x600) ∨ (0x6C0 ≤ b.toNat ∧ b.toNat < 0x700) ∨
      (0x703 ≤ b.toNat ∧ b.toNat < 0x780) ∨ 0x78B ≤ b.toNat) : s.wordAt b = none := by
  by_cases hstaging : 0x026 ≤ b.toNat ∧ b.toNat < 0x040
  · have hnone : stagingAt (b.toNat - 0x020) = none := not_not.mp fun h => by
      have := stagingAt_ne_none.mp h
      omega
    rw [wordAt_staging (o := b.toNat - 0x020) (by omega) (by omega), hnone]
    rfl
  · by_cases hstatus : 0x703 ≤ b.toNat ∧ b.toNat < 0x780
    · rw [wordAt_status (o := b.toNat - 0x700) (by omega) (by omega), statusWord_above (by omega)]
      rfl
    · unfold State.wordAt
      dsimp only
      rcases h with h | h | h | h | h | h | h
      · rw [if_neg (by omega), if_pos (by omega)]
      · exact absurd h hstaging
      · rw [if_neg (by omega), if_neg (by omega), if_neg (by omega), if_neg (by omega), if_pos (by omega)]
      · rw [if_neg (by omega), if_neg (by omega), if_neg (by omega), if_neg (by omega), if_neg (by omega),
          if_neg (by omega), if_neg (by omega), if_pos (by omega)]
      · rw [if_neg (by omega), if_neg (by omega), if_neg (by omega), if_neg (by omega), if_neg (by omega),
          if_neg (by omega), if_neg (by omega), if_neg (by omega), if_neg (by omega), if_pos (by omega)]
      · exact absurd h hstatus
      · rw [if_neg (by omega), if_neg (by omega), if_neg (by omega), if_neg (by omega), if_neg (by omega),
          if_neg (by omega), if_neg (by omega), if_neg (by omega), if_neg (by omega), if_neg (by omega),
          if_neg (by omega), if_neg (by omega)]

/-- A word is captured exactly at the addresses that the tables of 12.3 name. -/
theorem wordAt_eq_none_iff (s : State) (b : WordAddr) : s.wordAt b = none ↔ addrKind b = .unmapped := by
  rcases region b with ⟨ha, hk⟩ | ⟨f, ha, hk⟩ | ⟨ha, hk⟩ | ⟨n, o, ho, ha, hk⟩ | ⟨t, o, ho, ha, hk⟩ | ⟨x, o, ho, ha, hk⟩ |
    ⟨ha, hk⟩ | ⟨ha, hk⟩ <;> rw [hk]
  · rw [wordAt_device ha, ← deviceWords_get s ha, Option.map_eq_none_iff, List.getElem?_eq_none_iff]
    exact iff_of_false (Nat.not_le.mpr ha) (deviceKind_mapped _)
  · have := f.offset_lt
    rw [wordAt_staging ha (by omega), stagingAt_offset]
    exact iff_of_false (Option.some_ne_none _) RegKind.noConfusion
  · rw [wordAt_matchList ⟨(b.toNat - 0x040) / 4, by omega⟩ (o := (b.toNat - 0x040) % 4) (by dsimp only; omega) (by omega)]
    exact iff_of_false (Option.some_ne_none _) RegKind.noConfusion
  · rw [wordAt_stream n ha ho, streamWord_eq_none, ← streamKind_mapped n o, not_not]
  · rw [wordAt_timer t ha ho, Option.map_eq_none_iff, Timer.word_eq_none _ ho, ← timerKind_mapped t ho, not_not]
  · rw [wordAt_notice x ha ho, Option.map_eq_none_iff, NoticeSource.word_eq_none _ ho, ← noticeKind_mapped x ho, not_not]
  · refine iff_of_false ?_ RegKind.noConfusion
    rcases ha with ha | ha
    · rw [wordAt_status (o := b.toNat - 0x700) (by omega) (by omega), ← Notices.statusWords_get _ (by omega),
        Option.map_eq_none_iff, List.getElem?_eq_none_iff]
      have hlength : s.nt.statusWords.length = 3 := rfl
      omega
    · rw [wordAt_snapshot (o := b.toNat - 0x780) (by omega) (by omega), ← Snapshot.words_get _ (by omega),
        Option.map_eq_none_iff, List.getElem?_eq_none_iff]
      have hlength : s.mgmt.snapshot.words.length = 11 := rfl
      omega
  · exact iff_of_true (wordAt_gap ha) rfl

/-! ### The blocks as they read -/

theorem device_reads (hr : s.Ready) : s.ReadsBlock 0x000 s.deviceWords :=
  readsBlock hr (k := 16) rfl (by decide) fun i hi b hb => by
    rw [wordAt_device (by omega), deviceWords_get s hi, hb, Nat.zero_add]

theorem staging_reads (hr : s.Ready) : s.ReadsBlock 0x020 s.staging.words :=
  readsBlock hr (k := 6) rfl (by decide) fun i hi b hb => by
    rw [wordAt_staging hb (by omega), MatchRule.words_get _ hi, Option.map_map]
    rfl

theorem matchList_reads (hr : s.Ready) (i : Fin 32) : s.ReadsBlock (0x040 + 4 * i.val) (cell s.matchList i).words :=
  readsBlock hr (k := 4) rfl (by omega) fun o ho b hb => by
    rw [wordAt_matchList i hb ho, MatchEntry.words_get _ ho]
    rfl

/-- A list of numbers stands in a stream's block from offset o on. -/
theorem stream_reads (hr : s.Ready) (n : StreamId) {o k : Nat} {l : List Nat} (hk : l.length = k) (ho : o + k ≤ 0x40)
    (h : ∀ i < k, s.streamWord n (o + i) = l[i]?.map (BitVec.ofNat 32)) :
    s.ReadsBlock (0x100 + 0x40 * n.val + o) l :=
  readsBlock hr hk (by omega) fun i hi b hb => by
    rw [wordAt_stream n (o := o + i) (by omega) (by omega), h i hi]

theorem streamWord_pending (s : State) (n : StreamId) {i : Nat} (hi : i < 12) :
    s.streamWord n (0 + i) = (s.stream n).pend.words[i]?.map (BitVec.ofNat 32) := by
  unfold State.streamWord
  dsimp only
  rw [if_pos (by omega), Params.words_get _ hi, Option.map_map, Nat.zero_add]
  rfl

theorem streamWord_live (s : State) (n : StreamId) {i : Nat} (hi : i < 12) :
    s.streamWord n (0x10 + i) = (s.stream n).live.words[i]?.map (BitVec.ofNat 32) := by
  unfold State.streamWord
  dsimp only
  rw [if_neg (by omega), if_pos (by omega), Params.words_get _ hi, Option.map_map, Nat.add_sub_cancel_left]
  rfl

theorem streamWord_counters (s : State) (n : StreamId) {i : Nat} (hi : i < 7) :
    s.streamWord n (0x28 + i) = (s.stream n).counters.words[i]?.map (BitVec.ofNat 32) := by
  unfold State.streamWord
  dsimp only
  rw [if_neg (by omega), if_neg (by omega), if_neg (by omega), if_neg (by omega), if_neg (by omega), if_neg (by omega),
    if_neg (by omega), Counters.words_get _ hi, Nat.add_sub_cancel_left]

theorem timer_reads (hr : s.Ready) (t : TimerId) : s.ReadsBlock (0x500 + 8 * t.val) (s.timer t).words :=
  readsBlock hr (k := 7) rfl (by omega) fun o ho b hb => by
    rw [wordAt_timer t hb (by omega), Timer.words_get _ ho]

theorem notice_reads (hr : s.Ready) (x : NoticeId) : s.ReadsBlock (0x600 + 8 * x.val) (cell s.nt.sources x).words :=
  readsBlock hr (k := 5) rfl (by omega) fun o ho b hb => by
    rw [wordAt_notice x hb (by omega), NoticeSource.words_get _ ho]

theorem status_reads (hr : s.Ready) : s.ReadsBlock 0x700 s.nt.statusWords :=
  readsBlock hr (k := 3) rfl (by decide) fun i hi b hb => by
    rw [wordAt_status hb (by omega), Notices.statusWords_get _ hi]

theorem snapshot_reads (hr : s.Ready) : s.ReadsBlock 0x780 s.mgmt.snapshot.words :=
  readsBlock hr (k := 11) rfl (by decide) fun i hi b hb => by
    rw [wordAt_snapshot hb hi, Snapshot.words_get _ hi]

end Sys2Proof.Machine

namespace Sys2Proof.Proofs

open Sys2Proof Sys2Proof.Machine

/-- The readback of an entry, its fields placed as the packed layout has them. -/
theorem matchWords_packed (e : MatchEntry) :
    e.words =
      [2 ^ 31 * flagCode e.valid + 2 ^ 16 * e.rule.stream.val + 2 ^ 12 * e.rule.kind.code +
          2 ^ 6 * e.rule.sourceMask.toNat + e.rule.sourceValue.toNat,
        e.rule.pageBase.toNat, e.rule.pageLimit.toNat, 0] := by
  unfold MatchEntry.words MatchEntry.word
  rw [Nat.mul_comm (flagCode e.valid), Nat.mul_comm e.rule.stream.val, Nat.mul_comm e.rule.kind.code,
    Nat.mul_comm e.rule.sourceMask.toNat]
  rfl

theorem snapshotWords_packed (r : Snapshot) :
    r.words =
      (2 ^ 31 * flagCode r.valid + r.stream.val) :: r.counters.words ++ [r.credit, r.queueLength, r.issueCount] := by
  unfold Snapshot.words
  rw [Nat.mul_comm (flagCode r.valid)]

/-- Settles O37. -/
theorem readsOfTheWindow : Obligations.ReadsOfTheWindow := by
  refine fun s hr => ⟨fun a ha => ?_, fun a ha => ?_, device_reads hr, staging_reads hr, fun i => ?_,
    fun n => ⟨?_, ?_, ?_, ?_⟩, fun t => timer_reads hr t, fun x => notice_reads hr x, status_reads hr, ?_⟩
  · exact gives_unmapped hr ((wordAt_eq_none_iff s a).mpr ha)
  · obtain ⟨w, hw⟩ := Option.ne_none_iff_exists'.mp fun h => ha ((wordAt_eq_none_iff s a).mp h)
    exact ⟨w, gives_word hr hw⟩
  · have h := matchList_reads hr i
    rw [matchWords_packed] at h
    exact h
  · exact stream_reads hr n (o := 0) (k := 12) (l := (s.stream n).pend.words) rfl (by decide) fun i hi => streamWord_pending s n hi
  · exact stream_reads hr n (o := 0x10) (k := 12) (l := (s.stream n).live.words) rfl (by decide) fun i hi => streamWord_live s n hi
  · exact stream_reads hr n (o := 0x20) (k := 4) (l := s.streamWords n) rfl (by decide) fun i hi => (streamWords_get s n hi).symm
  · exact stream_reads hr n (o := 0x28) (k := 7) (l := (s.stream n).counters.words) rfl (by decide)
      fun i hi => streamWord_counters s n hi
  · have h := snapshot_reads hr
    rw [snapshotWords_packed] at h
    exact h

end Sys2Proof.Proofs
end

section
/-! The entries that await an answer, across the parts of an event: none of them but a fill and a take makes or answers
one (R87, R89). -/

namespace Sys2Proof.Machine

variable {s v w : State} {e : Ev} {kept : List EntryState} {l l' l'' : List OrderEntry}

/-! ### Order tables -/

/-- The entries of a table that are not ABANDONED, each by its source and its drawing number. -/
def waitingIn (l : List OrderEntry) : List (Source × Nat) :=
  (l.filter (fun x => x.state != .abandoned)).map fun x => (x.source, x.draw)

theorem mem_waitingIn {p : Source × Nat} :
    p ∈ waitingIn l ↔ ∃ x ∈ l, x.state ≠ .abandoned ∧ x.source = p.1 ∧ x.draw = p.2 := by
  simp only [waitingIn, List.mem_map, List.mem_filter, bne_iff_ne, Prod.ext_iff, and_assoc]

/-- A table with the same entries awaiting an answer, where the entries left in the states kept stay in them. -/
structure Restates (kept : List EntryState) (l l' : List OrderEntry) : Prop where
  waiting : waitingIn l' = waitingIn l
  entries : ∀ x' ∈ l', ∃ x ∈ l, x'.source = x.source ∧ x'.draw = x.draw ∧ (x.state ∈ kept → x'.state = x.state)

theorem Restates.refl (l : List OrderEntry) : Restates kept l l := ⟨rfl, fun x hx => ⟨x, hx, rfl, rfl, fun _ => rfl⟩⟩

theorem Restates.trans (h : Restates kept l l') (h' : Restates kept l' l'') : Restates kept l l'' := by
  refine ⟨h'.waiting.trans h.waiting, fun x'' hx'' => ?_⟩
  obtain ⟨x', hx', hs', hd', hk'⟩ := h'.entries x'' hx''
  obtain ⟨x, hx, hs, hd, hk⟩ := h.entries x' hx'
  refine ⟨x, hx, hs'.trans hs, hd'.trans hd, fun hmem => ?_⟩
  have hxx := hk hmem
  exact (hk' (hxx ▸ hmem)).trans hxx

/-- Some entries, none of them ABANDONED, pass to another state. -/
theorem Restates.mapped (c : OrderEntry → Prop) [DecidablePred c] {es : EntryState} (hes : es ≠ .abandoned)
    (h : ∀ x ∈ l, c x → x.state ≠ .abandoned ∧ (x.state ∈ kept → es = x.state)) :
    Restates kept l (l.map fun x => if c x then { x with state := es } else x) := by
  refine ⟨?_, fun x' hx' => ?_⟩
  · unfold waitingIn
    induction l with
    | nil => rfl
    | cons x l ih =>
      have ih' := ih fun y hy => h y (List.mem_cons_of_mem _ hy)
      by_cases hc : c x
      · have hx := (h x List.mem_cons_self hc).1
        rw [List.map_cons, if_pos hc, List.filter_cons_of_pos (by simpa using hes), List.filter_cons_of_pos (by simpa using hx),
          List.map_cons, List.map_cons, ih']
      · rw [List.map_cons, if_neg hc]
        by_cases hx : x.state = .abandoned
        · rw [List.filter_cons_of_neg (by simp [hx]), List.filter_cons_of_neg (by simp [hx]), ih']
        · rw [List.filter_cons_of_pos (by simpa using hx), List.filter_cons_of_pos (by simpa using hx), List.map_cons,
            List.map_cons, ih']
  · obtain ⟨x, hx, rfl⟩ := List.mem_map.mp hx'
    refine ⟨x, hx, ?_⟩
    split
    · next hc => exact ⟨rfl, rfl, fun hk => (h x hx hc).2 hk⟩
    · exact ⟨rfl, rfl, fun _ => rfl⟩

/-- ABANDONED entries leave. -/
theorem Restates.removed {d : Nat} (h : ∀ x ∈ l, x.draw = d → x.state = .abandoned) :
    Restates kept l (removeEntry d l) := by
  refine ⟨?_, fun x hx => ⟨x, (mem_removeEntry.mp hx).1, rfl, rfl, fun _ => rfl⟩⟩
  unfold waitingIn removeEntry
  rw [List.filter_filter]
  congr 1
  refine List.filter_congr fun x hx => ?_
  by_cases hd : x.draw = d
  · simp [hd, h x hx hd]
  · simp [hd]

/-! ### The parts of an event -/

/-- The states that no part of an event but a fill takes an entry out of. -/
def steady : List EntryState := [.abandoned, .made .refused false]

theorem abandoned_steady : EntryState.abandoned ∈ steady := by decide

theorem queued_unsteady : EntryState.queued ∉ steady := by decide

theorem issued_unsteady : EntryState.issued ∉ steady := by decide

/-- A state on the way that awaits the same answers, with none given and no request taken in between. -/
structure Carries (kept : List EntryState) (v w : State) : Prop where
  order : Restates kept v.order w.order
  stage : w.answer.stage = v.answer.stage
  draws : w.up.draws = v.up.draws

theorem Carries.refl (v : State) : Carries kept v v := ⟨.refl _, rfl, rfl⟩

theorem Carries.trans {u : State} (h : Carries kept v w) (h' : Carries kept w u) : Carries kept v u :=
  ⟨h.order.trans h'.order, h'.stage.trans h.stage, h'.draws.trans h.draws⟩

/-- A state with the same order table, answer stage and drawing numbers. -/
theorem Carries.of_eq (ho : w.order = v.order) (hs : w.answer.stage = v.answer.stage) (hd : w.up.draws = v.up.draws) :
    Carries kept v w := ⟨ho ▸ .refl _, hs, hd⟩

/-- An ABANDONED entry that its response ends leaves; a ghost mark clears (R94, R95). -/
theorem State.StoreMatches.abandoned_restates (h : v.StoreMatches) {m : OrderEntry} (hm : m ∈ v.order)
    (hs : m.state = .abandoned) : Restates kept v.order (removeEntry m.draw v.order) :=
  .removed fun x hx hd => by rw [h.entry_eq hx hm hd, hs]

theorem State.StoreMatches.ghost_restates (h : v.StoreMatches) {m : OrderEntry} {status : LocalStatus} {ghost : Bool}
    (hm : m ∈ v.order) (hs : m.state = .made status ghost) (hk : ∀ st g, .made st g ∈ kept → g = false) :
    Restates kept v.order (setEntry m.draw (.made status false) v.order) :=
  .mapped _ (by nofun) fun x hx hd => by
    rw [h.entry_eq hx hm hd, hs]
    refine ⟨by nofun, fun hmem => ?_⟩
    rw [hk status ghost hmem]

theorem steady_made {status : LocalStatus} {ghost : Bool} (h : EntryState.made status ghost ∈ steady) : ghost = false := by
  simp only [steady, List.mem_cons, reduceCtorEq, List.not_mem_nil, or_false, false_or, EntryState.made.injEq] at h
  exact h.2

/-- The expiries of an event take QUEUED entries to LOCAL (R113). -/
theorem ageRecords_carries (e : Ev) (sel : StoreRec → Bool) : Carries steady e.st (e.ageRecords sel).st := by
  rw [ageRecords_fields]
  refine ⟨.mapped _ (by nofun) fun x _ hx => ?_, rfl, rfl⟩
  rw [hx.1]
  exact ⟨by nofun, fun h => absurd h queued_unsteady⟩

/-- The drain timeout takes ISSUED entries to LOCAL (R166). -/
theorem drainTimeout_carries (e : Ev) : Carries steady e.st e.drainTimeout.st := by
  rw [drainTimeout_fields]
  refine ⟨.mapped _ (by nofun) fun x _ hx => ?_, rfl, rfl⟩
  rw [hx]
  exact ⟨by nofun, fun h => absurd h issued_unsteady⟩

/-- A part of an event that is neither a fill nor a take leaves the entries that await an answer. -/
theorem Move.carries (hmove : Move false v w) (hm : v.StoreMatches) : Carries steady v w := by
  cases hmove with
  | other _ _ ht => rw [ht]; exact .of_eq rfl rfl rfl
  | discardedAbandoned _ r m hdue hs => exact ⟨hm.abandoned_restates (oldestDue_mem hdue) hs, rfl, rfl⟩
  | discardedGhost _ r m status ghost hdue hs =>
    exact ⟨hm.ghost_restates (oldestDue_mem hdue) hs fun _ _ => steady_made, rfl, rfl⟩
  | granted _ r hs hg =>
    have hr : r ∈ v.store := (hm.eligible_of_grantChoice hg).1
    obtain ⟨m, hmem, hq, hsh⟩ := hm.entry_of_record hr
    have hdraw : m.draw = r.draw := congrArg Shared.draw hsh
    rw [grantTo_fields]
    refine ⟨.mapped _ (by nofun) fun x hx hd => ?_, rfl, rfl⟩
    rw [hm.entry_eq hx hmem (hd.trans hdraw.symm), hq]
    exact ⟨by nofun, fun h => absurd h queued_unsteady⟩
  | issueTaken => rcases issueTake_cases v with ⟨-, ht⟩ | ⟨q, -, ht⟩ <;> rw [ht] <;> exact .of_eq rfl rfl rfl
  | aged e sel => exact ageRecords_carries e sel
  | drainTimedOut e => exact drainTimeout_carries e
  | warmStarted =>
    rw [warmStart_fields]
    refine ⟨.mapped _ (by nofun) fun x _ hx => ?_, rfl, rfl⟩
    rw [hx]
    exact ⟨by nofun, fun h => absurd h queued_unsteady⟩
  | _ => exact .of_eq rfl rfl rfl

theorem Moves.carries (hmoves : Moves false v w) (hm : v.StoreMatches) : w.StoreMatches ∧ Carries steady v w :=
  hmoves.keep (P := fun u => u.StoreMatches ∧ Carries steady v u)
    (fun _ _ hmove h => ⟨hmove.storeMatches h.1, h.2.trans (hmove.carries h.1)⟩) ⟨hm, .refl v⟩

end Sys2Proof.Machine
end

section
/-! How far an event has come with the answer that it gives: none yet, none yet but a request taken, or the answer given
(R89, R91, R97, R98). -/

namespace Sys2Proof.Machine

variable {s v w : State} {e : Ev} {kept : List EntryState}

/-! ### Answer fronts (R89) -/

/-- A source's answer front is the first of its entries that await an answer. -/
theorem answerFront_waiting (u : State) (S : Source) :
    (u.answerFront S).map (fun f => (f.source, f.draw)) = (waitingIn u.order).find? fun p => p.1 == S := by
  unfold waitingIn State.answerFront
  rw [List.find?_map, List.find?_filter]
  congr 2
  funext x
  simp only [Function.comp_apply, Bool.decide_and, Bool.decide_eq_true]
  exact Bool.and_comm _ _

/-- Where the same entries await an answer each source has the same front, by its drawing number. -/
theorem front_of_waiting (h : waitingIn v.order = waitingIn s.order) {S : Source} {g : OrderEntry}
    (hg : v.answerFront S = some g) : ∃ f, s.answerFront S = some f ∧ f.draw = g.draw := by
  have hmap := answerFront_waiting s S
  rw [← h, ← answerFront_waiting v S, hg] at hmap
  obtain ⟨f, hf, hfg⟩ := Option.map_eq_some_iff.mp hmap
  exact ⟨f, hf, congrArg Prod.snd hfg⟩

/-- Where one entry more awaits an answer it is the front of a source that had none. -/
theorem front_of_appended {T : Source} {d : Nat} (h : waitingIn v.order = waitingIn s.order ++ [(T, d)]) {S : Source}
    {g : OrderEntry} (hg : v.answerFront S = some g) :
    (∃ f, s.answerFront S = some f ∧ f.draw = g.draw) ∨ (s.answerFront S = none ∧ T = S ∧ g.draw = d) := by
  have hmap := answerFront_waiting v S
  rw [h, List.find?_append, ← answerFront_waiting s S, hg] at hmap
  cases hs : s.answerFront S with
  | some f =>
    rw [hs] at hmap
    exact .inl ⟨f, rfl, (congrArg Prod.snd (Option.some.inj hmap)).symm⟩
  | none =>
    rw [hs, Option.map_none, Option.none_or] at hmap
    have hfound := List.find?_some hmap.symm
    have hmem := List.mem_singleton.mp (List.mem_of_find?_eq_some hmap.symm)
    have hT : g.source = T := congrArg Prod.fst hmem
    exact .inr ⟨rfl, hT.symm.trans (beq_iff_eq.mp hfound), congrArg Prod.snd hmem⟩

/-- A source without an answer front has no entry that awaits an answer. -/
theorem waiting_of_no_front {S : Source} (h : s.answerFront S = none) {d : Nat} : (S, d) ∉ waitingIn s.order := by
  intro hmem
  obtain ⟨x, hx, hw, hS, -⟩ := mem_waitingIn.mp hmem
  have := List.find?_eq_none.mp h x hx
  exact this (by simpa [hw] using hS)

/-! ### The fill (R91, R97, R98) -/

/-- A fill of the empty stage answers an answer front, ISSUED or LOCAL, which leaves the table or becomes ABANDONED. -/
structure Fills (e e' : Ev) (a : Answer) (f : OrderEntry) : Prop where
  empty : e.st.answer.stage = none
  stage : e'.st.answer.stage = some a
  front : e.st.answerFront a.source = some f
  state : f.state = .issued ∨ ∃ status ghost, f.state = .made status ghost ∧ a.status = status.answer
  gone : ∀ x ∈ e'.st.order, x.draw = f.draw → x.state = .abandoned
  others : ∀ x ∈ e'.st.order, x.state ≠ .abandoned → x ∈ e.st.order

theorem fill_fills (e : Ev) (hm : e.st.StoreMatches) : e.fill = e ∨ ∃ a f, Fills e e.fill a f := by
  rcases fill_cases e with h | ⟨r, m, hempty, ha, h⟩ | ⟨f, hempty, -, hl, h⟩
  · exact .inl h
  · right
    obtain ⟨-, hdue, hissued, f, hfront, hdraw⟩ := answerable_some ha
    have hfm : f = m := hm.entry_eq (answerFront_mem hfront) (oldestDue_mem hdue) hdraw
    obtain ⟨a, hsource, hcases⟩ := memoryAnswer_cases e r m
    have hst : (e.memoryAnswer r m).st.answer.stage = some a ∧
        (e.memoryAnswer r m).st.order = removeEntry m.draw e.st.order := by
      rcases hcases with ⟨-, hm⟩ | ⟨n, jobs, -, hm, -⟩ <;> rw [hm] <;> exact ⟨rfl, rfl⟩
    refine ⟨a, f, hempty, by rw [h]; exact hst.1, by rw [hsource]; exact hfront, .inl (by rw [hfm]; exact hissued),
      fun x hx hd => ?_, fun x hx _ => ?_⟩ <;> rw [h, hst.2] at hx
    · exact absurd (hd.trans hdraw) (mem_removeEntry.mp hx).2
    · exact (mem_removeEntry.mp hx).1
  · right
    obtain ⟨S, hfront, rfl, status, ghost, hs⟩ := localChoice_some hl
    have hst : e.fill.st = e.st.localAnswer f := by rw [h]; rfl
    rw [localAnswer_fields hs] at hst
    refine ⟨{ source := f.source, status := status.answer, data := [] }, f, hempty, ?_, hfront, .inr ⟨status, ghost, hs, rfl⟩,
      fun x hx hd => ?_, fun x hx hw => ?_⟩
    · rw [hst]
    all_goals
      rw [hst] at hx
      cases ghost
    · exact absurd hd (mem_removeEntry.mp hx).2
    · obtain ⟨y, -, rfl⟩ := List.mem_map.mp hx
      split
      · rfl
      · next hne => rw [if_neg hne] at hd; exact absurd hd hne
    · exact (mem_removeEntry.mp hx).1
    · obtain ⟨y, hy, rfl⟩ := List.mem_map.mp hx
      split
      · next heq => rw [if_pos heq] at hw; exact absurd rfl hw
      · exact hy

/-! ### How far an event has come -/

/-- How far the event at s has come in v: no answer given and no request taken; none given and one taken, whose entry is
in one of the states kept; the answer front of a source in s answered; or the request taken answered REFUSED at once. -/
inductive Way (kept : List EntryState) (s v : State) : Prop
  | waits (stage : v.answer.stage = none) (draws : v.up.draws = s.up.draws)
      (waiting : waitingIn v.order = waitingIn s.order)
  | taken (S : Source) (stage : v.answer.stage = none) (draws : v.up.draws = s.up.draws + 1) (offer : v.up.offer = none)
      (waiting : waitingIn v.order = waitingIn s.order ++ [(S, s.up.draws)])
      (new : ∀ x ∈ v.order, x.draw = s.up.draws → x.state ∈ kept)
  | answered (a : Answer) (f : OrderEntry) (stage : v.answer.stage = some a) (draws : s.up.draws ≤ v.up.draws)
      (front : s.answerFront a.source = some f) (gone : ∀ x ∈ v.order, x.draw = f.draw → x.state = .abandoned)
  | refused (a : Answer) (stage : v.answer.stage = some a) (draws : v.up.draws = s.up.draws + 1)
      (offer : v.up.offer = none) (front : s.answerFront a.source = none) (status : a.status = .refused)
      (gone : ∀ x ∈ v.order, x.source = a.source → x.state = .abandoned)

/-- The states that the end of an event takes an entry out of by a fill alone. -/
def closing : List EntryState := .queued :: steady

theorem closing_made {status : LocalStatus} {ghost : Bool} (h : EntryState.made status ghost ∈ closing) :
    status = .refused ∧ ghost = false := by
  simpa [closing, steady] using h

theorem issued_not_closing : EntryState.issued ∉ closing := by decide

theorem Way.carries (h : Way kept s v) (hc : Carries kept v w) (ho : w.up.offer = v.up.offer)
    (ha : EntryState.abandoned ∈ kept) : Way kept s w := by
  cases h with
  | waits hs hd hw => exact .waits (hc.stage.trans hs) (hc.draws.trans hd) (hc.order.waiting.trans hw)
  | taken S hs hd hof hw hn =>
    refine .taken S (hc.stage.trans hs) (hc.draws.trans hd) (ho.trans hof) (hc.order.waiting.trans hw) fun x hx hxd => ?_
    obtain ⟨y, hy, -, hyd, hk⟩ := hc.order.entries x hx
    have hmem := hn y hy (hyd.symm.trans hxd)
    rw [hk hmem]
    exact hmem
  | answered a f hs hd hf hg =>
    refine .answered a f (hc.stage.trans hs) (hd.trans hc.draws.ge) hf fun x hx hxd => ?_
    obtain ⟨y, hy, -, hyd, hk⟩ := hc.order.entries x hx
    have hab := hg y hy (hyd.symm.trans hxd)
    rw [hk (hab ▸ ha), hab]
  | refused a hs hd hof hf hst hg =>
    refine .refused a (hc.stage.trans hs) (hc.draws.trans hd) (ho.trans hof) hf hst fun x hx hxs => ?_
    obtain ⟨y, hy, hys, -, hk⟩ := hc.order.entries x hx
    have hab := hg y hy (hys.symm.trans hxs)
    rw [hk (hab ▸ ha), hab]

/-! ### The end of an event -/

/-- A state on the way at the end of an event. -/
def OnWay (s v : State) : Prop := v.StoreMatches ∧ Way closing s v

theorem OnWay.carries (h : OnWay s v) (hm : w.StoreMatches) (hc : Carries closing v w) (ho : w.up.offer = v.up.offer) :
    OnWay s w := ⟨hm, h.2.carries hc ho (by decide)⟩

theorem OnWay.discarded (h : OnWay s e.st) : OnWay s e.discardResponse.st := by
  rcases discardResponse_cases e with hd | ⟨_, _, _, hd⟩ | ⟨r, m, -, hdue, hs, hd⟩ | ⟨r, m, status, ghost, -, hdue, hs, hd⟩ <;>
    rw [hd]
  · exact h
  · exact h.carries ⟨h.1.correspond, h.1.rising, h.1.drawn⟩ (.of_eq rfl rfl rfl) rfl
  · exact h.carries (h.1.removed (oldestDue_mem hdue) (by rw [hs]; decide) rfl rfl rfl)
      ⟨h.1.abandoned_restates (oldestDue_mem hdue) hs, rfl, rfl⟩ rfl
  · exact h.carries (h.1.restated (oldestDue_mem hdue) (by rw [hs]; nofun) (es := .made status false) (by nofun) rfl rfl rfl)
      ⟨h.1.ghost_restates (oldestDue_mem hdue) hs fun _ _ hk => (closing_made hk).2, rfl, rfl⟩ rfl

theorem fill_storeMatches (h : e.st.StoreMatches) : e.fill.st.StoreMatches := by
  rcases fill_cases e with hf | ⟨r, m, -, ha, hf⟩ | ⟨f, -, -, hl, hf⟩ <;> rw [hf]
  · exact h
  · obtain ⟨a, -, ⟨hn, hm⟩ | ⟨n, jobs, hn, hm, -⟩⟩ := memoryAnswer_cases e r m <;> rw [hm]
    · exact (Move.memoryAnswered _ r m a ha hn).storeMatches h
    · exact (Move.memoryAnsweredOf _ r m a n r.isOk ha hn).storeMatches h
  · exact (Move.localAnswered _ f hl).storeMatches h

theorem OnWay.filled (h : OnWay s e.st) : OnWay s e.fill.st := by
  refine ⟨fill_storeMatches h.1, ?_⟩
  rcases fill_fills e h.1 with hf | ⟨a, f, hf⟩
  · rw [hf]
    exact h.2
  have hup : e.fill.st.up = e.st.up := by rw [fill_rest]
  cases h.2 with
  | waits hs hd hw =>
    obtain ⟨g, hg, hgf⟩ := front_of_waiting hw hf.front
    exact .answered a g hf.stage (by rw [hup]; exact hd.ge) hg fun x hx hxd => hf.gone x hx (hxd.trans hgf)
  | taken S hs hd ho hw hn =>
    rcases front_of_appended hw hf.front with ⟨g, hg, hgf⟩ | ⟨hnone, hS, hdraw⟩
    · exact .answered a g hf.stage (by rw [hup]; omega) hg fun x hx hxd => hf.gone x hx (hxd.trans hgf)
    · have hnew := hn f (answerFront_mem hf.front) hdraw
      refine .refused a hf.stage (by rw [hup]; exact hd) (by rw [hup]; exact ho) hnone ?_ fun x hx hxs => ?_
      · rcases hf.state with hi | ⟨status, ghost, hm, ha⟩
        · exact absurd (hi ▸ hnew) issued_not_closing
        · rw [hm] at hnew
          rw [ha, (closing_made hnew).1]
          rfl
      · by_contra hxw
        have hmem : (a.source, x.draw) ∈ waitingIn e.st.order := mem_waitingIn.mpr ⟨x, hf.others x hx hxw, hxw, hxs, rfl⟩
        rw [hw] at hmem
        rcases List.mem_append.mp hmem with hmem | hmem
        · exact waiting_of_no_front hnone hmem
        · have hxd : x.draw = s.up.draws := congrArg Prod.snd (List.mem_singleton.mp hmem)
          exact hxw (hf.gone x hx (hxd.trans hdraw.symm))
  | answered _ _ hs => exact absurd (hf.empty.symm.trans hs) (by nofun)
  | refused _ hs => exact absurd (hf.empty.symm.trans hs) (by nofun)

theorem OnWay.completed (h : OnWay s v) (hd : v.drained = true) : OnWay s v.warmComplete := by
  have hempty : v.answer.stage = none := by simp_all [State.drained]
  refine h.carries ((Move.warmCompleted v hd).storeMatches h.1) ?_ ?_
  · rw [warmComplete_fields]
    exact .of_eq rfl hempty.symm rfl
  · rw [warmComplete_fields]

/-- A take appends an entry, QUEUED or LOCAL REFUSED, with the next drawing number (R39, R40). -/
theorem take_appends (e : Ev) (r : Request) :
    ∃ x : OrderEntry, (e.take r).st.order = e.st.order ++ [x] ∧ x.source = r.source ∧ x.draw = e.st.up.draws ∧
      (x.state = .queued ∨ x.state = .made .refused false) ∧ (e.take r).st.up = e.st.up.taken := by
  rcases take_cases e r with ⟨stream, n, f, jobs, h, -⟩ | ⟨-, f, h, -⟩ <;> rw [h]
  · exact ⟨e.st.newEntry r stream (.made .refused false), rfl, rfl, rfl, .inr rfl, rfl⟩
  · rw [keep_fields]
    exact ⟨e.st.newEntry r (some (e.st.classify r)) .queued, rfl, rfl, rfl, .inl rfl, rfl⟩

theorem take_storeMatches {r : Request} (h : e.st.StoreMatches) (ht : e.st.takeable = some r) :
    (e.take r).st.StoreMatches := by
  rcases take_cases e r with ⟨stream, n, f, jobs, hc, -⟩ | ⟨ha, f, hc, -⟩ <;> rw [hc]
  · have hm := (Move.refused _ r stream ht).storeMatches h
    exact ⟨hm.correspond, hm.rising, hm.drawn⟩
  · have hm := (Move.kept _ r ht ha).storeMatches h
    exact ⟨hm.correspond, hm.rising, hm.drawn⟩

theorem OnWay.take {r : Request} (hs : s.StoreMatches) (h : OnWay s e.st) (ht : e.st.takeable = some r) :
    OnWay s (e.take r).st := by
  refine ⟨take_storeMatches h.1 ht, ?_⟩
  obtain ⟨hoffer, -, -⟩ := takeable_some.mp ht
  obtain ⟨x, horder, hsource, hdraw, hstate, hup⟩ := take_appends e r
  have hanswer := (take_answer e r).1
  cases h.2 with
  | waits hstage hd hw =>
    refine .taken r.source (by rw [hanswer]; exact hstage) (by rw [hup, ← hd]; rfl) (by rw [hup]; rfl) ?_ fun y hy hyd => ?_
    · have hx : x.state ≠ .abandoned := by rcases hstate with hx | hx <;> rw [hx] <;> nofun
      unfold waitingIn at hw ⊢
      rw [horder, List.filter_append, List.map_append, hw, List.filter_cons_of_pos (by simpa using hx), List.filter_nil,
        List.map_singleton, hsource, hdraw, hd]
    · rw [horder] at hy
      rcases List.mem_append.mp hy with hy | hy
      · exact absurd (hyd.trans hd.symm) (h.1.drawn y hy).ne
      · rw [List.mem_singleton.mp hy]
        rcases hstate with hx | hx <;> rw [hx] <;> decide
  | taken _ _ _ ho => rw [ho] at hoffer; cases hoffer
  | answered a f hstage hd hf hg =>
    refine .answered a f (by rw [hanswer]; exact hstage) ?_ hf fun y hy hyd => ?_
    · rw [hup]
      exact hd.trans (Nat.le_succ _)
    · rw [horder] at hy
      rcases List.mem_append.mp hy with hy | hy
      · exact hg y hy hyd
      · have hlt := hs.drawn f (answerFront_mem hf)
        rw [List.mem_singleton.mp hy] at hyd
        omega
  | refused _ _ _ ho => rw [ho] at hoffer; cases hoffer

theorem OnWay.judged (h : OnWay s e.st) : OnWay s e.judge := by
  rw [judge_rest]
  exact h.carries ⟨h.1.correspond, h.1.rising, h.1.drawn⟩ (.of_eq rfl rfl rfl) rfl

theorem OnWay.close (hs : s.StoreMatches) (h : OnWay s e.st) : OnWay s e.close :=
  close_induction (P := OnWay s) (fun _ => .discarded) (fun _ => .filled) (fun _ => .completed) (fun _ _ => .take hs)
    (fun _ => .judged) e h

theorem OnWay.closeStart (hs : s.StoreMatches) (h : OnWay s e.st) : OnWay s e.closeStart :=
  closeStart_induction (P := OnWay s) (fun _ => .discarded) (fun _ => .filled) (fun _ _ => .take hs)
    (fun _ => .judged) e h

end Sys2Proof.Machine
end

section
/-! An answer comes from its source's answer front, or from a REFUSED take, at every command (R89, R97, R101). -/

namespace Sys2Proof.Machine

variable {s t v w : State} {e : Ev} {c : Instr}

theorem OnWay.start (hs : s.StoreMatches) (h : s.answer.stage = none) : OnWay s s := ⟨hs, .waits h rfl rfl⟩

/-! ### A row that is one event -/

/-- What an event of parts that are no fill and no take has done awaits the same answers. -/
theorem OnWay.acted (hs : s.StoreMatches) (h : s.answer.stage = none) (he : Acts false ⟨s, []⟩ e) : OnWay s e.st := by
  obtain ⟨-, hmoves⟩ := he (proper_nil s)
  obtain ⟨hm, hc⟩ := hmoves.carries hs
  exact ⟨hm, .waits (hc.stage.trans h) hc.draws hc.order.waiting⟩

theorem OneEvent.onWay (hr : s.Ready) (hs : s.StoreMatches) (h : s.answer.stage = none) (hc : OneEvent false s t) :
    OnWay s t := by
  rcases hc with ⟨hreset | rfl, -⟩ | ⟨e₀, e, he₀, he, ht⟩
  · rw [hr.released] at hreset
    cases hreset
  · exact .start hs h
  · have hstart : e₀ = ⟨s, []⟩ := by
      rcases he₀ with rfl | rfl
      · rfl
      · exact follow_of_waits (e := ⟨s, []⟩) hr.settled.drain
    have hacted : OnWay s e.st := .acted hs h (hstart ▸ he)
    rcases ht with rfl | rfl
    · exact hacted.close hs
    · exact hacted.closeStart hs

/-- A row that is a take or a fill, or empties the answer stage. -/
theorem fillsOrTakes_onWay (hr : s.Ready) (hs : s.StoreMatches) (hc : FillsOrTakes c)
    (h : s.answer.stage = none ∨ c = .answerTake) (hexec : exec c s = .next t) : OnWay s t := by
  have hopen : ∀ f : Ev → Ev, happen s f = .next t → OnWay s (f ⟨s, []⟩).st → OnWay s t := fun f hf hway => by
    rw [happen_open hr.released hr.settled.drain] at hf
    cases hf
    exact hway.close hs
  cases c with
  | requestTake =>
    have hstart : OnWay s s := .start hs (h.resolve_right nofun)
    refine hopen Ev.takeIfAble (exec_requestTake s ▸ hexec) ?_
    rcases takeIfAble_cases ⟨s, []⟩ with ⟨-, ht⟩ | ⟨r, hable, ht⟩ <;> rw [ht]
    · exact hstart
    · exact OnWay.take (e := ⟨s, []⟩) hs hstart hable
  | answerFill =>
    exact hopen Ev.fill (exec_answerFill s ▸ hexec) (OnWay.filled (e := ⟨s, []⟩) (.start hs (h.resolve_right nofun)))
  | answerTake =>
    exact hopen _ (exec_answerTake s ▸ hexec) ⟨⟨hs.correspond, hs.rising, hs.drawn⟩, .waits rfl rfl rfl⟩
  | _ => exact absurd hc id

/-! ### The ticks (R106, R119) -/

/-- A state that differs at the timers and the ticks alone is as far on the way. -/
theorem OnWay.ticked (h : OnWay s v) (hw : TicksOnly v w) : OnWay s w := by
  rw [hw]
  exact h.carries ⟨h.1.correspond, h.1.rising, h.1.drawn⟩ (.of_eq rfl rfl rfl) rfl

theorem OnWay.tapTaken (h : OnWay s e.st) (k : Tap) : OnWay s (e.takeTap k).st := by
  obtain ⟨v, jobs⟩ := e
  rw [takeTap_eq]
  exact h.ticked (ticked_only v k)

theorem OnWay.timersSettled (hs : s.StoreMatches) (l : List TimerId) {e : Ev} (h : OnWay s e.st) :
    OnWay s (l.foldl Ev.settleTimer e).st := by
  induction l generalizing e with
  | nil => exact h
  | cons u l ih =>
    refine ih ?_
    rcases settleTimer_cases e u with ⟨k, -, he⟩ | ⟨-, he⟩ <;> rw [he]
    · dsimp only
      exact (h.tapTaken k).close hs
    · exact h

/-- While no record has joined the store a request taken on the way was not kept. -/
theorem OnWay.steady (hs : s.StoreMatches) (h : OnWay s v) (hstore : v.store = s.store) : Way steady s v := by
  cases h.2 with
  | waits hstage hd hw => exact .waits hstage hd hw
  | taken S hstage hd ho hw hn =>
    refine .taken S hstage hd ho hw fun x hx hxd => ?_
    rcases List.mem_cons.mp (hn x hx hxd) with hq | hk
    · have hmem : x ∈ v.queuedEntries := List.mem_filter.mpr ⟨hx, by simpa using hq⟩
      have hshared : x.shared ∈ v.store.map StoreRec.shared := h.1.correspond ▸ List.mem_map_of_mem hmem
      obtain ⟨r, hr, hrx⟩ := List.mem_map.mp hshared
      have hdraw : r.draw = x.draw := congrArg Shared.draw hrx
      have hlt := hs.record_drawn (hstore ▸ hr)
      omega
    · exact hk
  | answered a f hstage hd hf hg => exact .answered a f hstage hd hf hg
  | refused a hstage hd ho hf hst hg => exact .refused a hstage hd ho hf hst hg

theorem Way.closing (h : Way steady s v) : Way closing s v := by
  cases h with
  | waits hstage hd hw => exact .waits hstage hd hw
  | taken S hstage hd ho hw hn => exact .taken S hstage hd ho hw fun x hx hxd => List.mem_cons_of_mem _ (hn x hx hxd)
  | answered a f hstage hd hf hg => exact .answered a f hstage hd hf hg
  | refused a hstage hd ho hf hst hg => exact .refused a hstage hd ho hf hst hg

theorem takeAge_up (e : Ev) : e.takeAge.st.up = e.st.up := by
  have hage : ((e.map fun s => s.setAgeDue false).ageRecords fun _ => true).st.up = e.st.up := by
    rw [ageRecords_fields]
    rfl
  rw [← hage]
  unfold Ev.takeAge Ev.ageTick
  rcases drainTick_cases ((e.map fun s => s.setAgeDue false).ageRecords fun _ => true) with h | ⟨-, h⟩ | ⟨-, -, -, h⟩ <;>
    rw [h]
  · rw [drainTimeout_fields]
  · rfl

/-- An age tick on the way, while no record has joined the store: it expires records of before the event alone. -/
theorem OnWay.ageTaken (hs : s.StoreMatches) (h : OnWay s v) (hstore : v.store = s.store) :
    OnWay s (Ev.takeAge ⟨v, []⟩).st := by
  obtain ⟨-, hmoves⟩ := takeAge_acts (fin := false) ⟨v, []⟩ (proper_nil v)
  obtain ⟨hm, hc⟩ := hmoves.carries h.1
  exact ⟨hm, ((h.steady hs hstore).carries hc (by rw [takeAge_up]) abandoned_steady).closing⟩

/-- The beginning of a period, after the ticks of the present one that are not yet taken. -/
theorem OnWay.periodBegun (hr : s.Ready) (hs : s.StoreMatches) (h : s.answer.stage = none) :
    OnWay s (Ev.nextPeriod ⟨s, []⟩).st := by
  obtain ⟨t, ht, hstays, -, -⟩ := settleTimers_stays (List.finRange 4) hr.settled.calm
  have hway : OnWay s t := by
    have htimers := OnWay.timersSettled (e := ⟨s, []⟩) hs (List.finRange 4) (.start hs h)
    rw [ht] at htimers
    exact htimers
  have hage : OnWay s (Ev.settleAge ⟨t, []⟩).st := by
    rcases settleAge_cases ⟨t, []⟩ with ⟨-, he⟩ | ⟨-, he⟩ <;> rw [he]
    · exact OnWay.close (e := Ev.takeAge ⟨t, []⟩) hs (hway.ageTaken hs hstays.store)
    · exact hway
  unfold Ev.nextPeriod Ev.map
  rw [ht, beginPeriod_eq]
  exact hage.ticked rfl

theorem tapTick_onWay (hr : s.Ready) (hs : s.StoreMatches) (h : s.answer.stage = none) (k : Tap) :
    OnWay s (Ev.tapTick ⟨s, []⟩ k).st := by
  rcases tapTick_cases ⟨s, []⟩ k with ⟨-, he⟩ | ⟨-, -, he⟩ | ⟨-, -, he⟩ <;> rw [he]
  · exact OnWay.tapTaken (e := ⟨s, []⟩) (.start hs h) k
  · exact (OnWay.periodBegun hr hs h).tapTaken k
  · exact .start hs h

theorem ageTickNext_onWay (hr : s.Ready) (hs : s.StoreMatches) (h : s.answer.stage = none) :
    OnWay s (Ev.ageTickNext ⟨s, []⟩).st := by
  rcases ageTickNext_cases ⟨s, []⟩ with ⟨-, he⟩ | ⟨hn, -, he⟩ | ⟨-, -, he⟩ <;> rw [he]
  · exact (OnWay.start hs h).ageTaken hs rfl
  · have hbegun := OnWay.periodBegun hr hs h
    obtain ⟨t, ht, hstays, -⟩ := nextPeriod_stays hr.settled.calm hn
    rw [ht] at hbegun ⊢
    exact hbegun.ageTaken hs hstays.store
  · exact .start hs h

/-! ### Every command -/

theorem exec_onWay (hr : s.Ready) (hs : s.StoreMatches) (h : s.answer.stage = none ∨ c = .answerTake)
    (hexec : exec c s = .next t) (ht : t.inReset = false) : OnWay s t := by
  by_cases hfills : FillsOrTakes c
  · exact fillsOrTakes_onWay hr hs hfills h hexec
  have hstage : s.answer.stage = none := h.resolve_right fun hc => hfills (hc ▸ trivial)
  by_cases hcold : c = .coldReset
  · subst hcold
    have hreset : t = s.coldReset := by cases hexec; rfl
    rw [hreset, coldReset_fields] at ht
    cases ht
  by_cases htap : ∃ k, c = .tapTick k
  · obtain ⟨k, rfl⟩ := htap
    rw [exec_tapTick, happen_open hr.released hr.settled.drain] at hexec
    cases hexec
    exact (tapTick_onWay hr hs hstage k).close hs
  by_cases hage : c = .ageTick
  · subst hage
    rw [exec_ageTick, happen_open hr.released hr.settled.drain] at hexec
    cases hexec
    exact (ageTickNext_onWay hr hs hstage).close hs
  exact (exec_oneEvent hcold (fun k hk => htap ⟨k, hk⟩) hage hfills hexec).onWay hr hs hstage

/-- What a state waits for and has noted does not depend on the model's own queue and count. -/
theorem State.Ready.queued (h : s.Ready) (p : List Instr) (k : Nat) :
    State.Ready { s with pending := p, freeCount := k } := by
  obtain ⟨hr, ⟨hresponse, hshort, hstall, hpresented⟩, hoffer, hdrain, hanswers⟩ := h
  exact ⟨hr, ⟨hresponse, hshort, hstall, hpresented⟩, hoffer, hdrain, hanswers⟩

/-- Nor does the way that an event comes. -/
theorem OnWay.unqueued {p : List Instr} {k : Nat} (h : OnWay { s with pending := p, freeCount := k } t) : OnWay s t := by
  obtain ⟨hm, hway⟩ := h
  refine ⟨hm, ?_⟩
  cases hway with
  | waits hstage hd hw => exact .waits hstage hd hw
  | taken S hstage hd ho hw hn => exact .taken S hstage hd ho hw hn
  | answered a f hstage hd hf hg => exact .answered a f hstage hd hf hg
  | refused a hstage hd ho hf hst hg => exact .refused a hstage hd ho hf hst hg

/-- A step is a command on the state with another queue or another count of free choices. -/
theorem step_onWay (hr : s.Ready) (hs : s.StoreMatches) (hstep : step s = .next t)
    (h : s.answer.stage = none ∨ ∃ rest, s.pending = .answerTake :: rest) (ht : t.inReset = false) (ha : t.answer.stage ≠ none) :
    OnWay s t := by
  have hrun : ∀ (c : Instr) (p : List Instr) (k : Nat), (s.answer.stage = none ∨ c = .answerTake) →
      exec c { s with pending := p, freeCount := k } = .next t → OnWay s t := fun c p k hc hexec =>
    (exec_onWay (hr.queued p k) ⟨hs.correspond, hs.rising, hs.drawn⟩ hc hexec ht).unqueued
  rcases h with hstage | ⟨rest, hrest⟩
  · rcases step_cases hstep with rfl | ⟨c, u, hu, hexec⟩
    · exact absurd hstage ha
    · rw [hu] at hexec
      exact hrun c _ _ (.inl hstage) hexec
  · rw [step_front hrest] at hstep
    exact hrun .answerTake rest s.freeCount (.inr rfl) hstep

end Sys2Proof.Machine

namespace Sys2Proof.Proofs

open Sys2Proof Sys2Proof.Machine

/-- Settles O60: at the end of the event the answer stage is filled, so that the event has come to an answer. -/
theorem answersComeFromTheFront : Obligations.AnswersComeFromTheFront := by
  intro s t a hr hs hstep h ha ht
  have hfilled : ∀ b, t.answer.stage = some b → b = a := fun b hb => Option.some.inj (hb.symm.trans ha)
  have hway := step_onWay hr hs hstep h ht (by rw [ha]; nofun)
  cases hway.2 with
  | waits hstage => rw [hstage] at ha; cases ha
  | taken _ hstage => rw [hstage] at ha; cases ha
  | answered b f hstage _ hf hg =>
    obtain rfl := hfilled b hstage
    exact .inl ⟨f, hf, hs.before_front hf, hg⟩
  | refused b hstage hd _ hf hst hg =>
    obtain rfl := hfilled b hstage
    exact .inr ⟨hf, hst, hd, hg⟩

end Sys2Proof.Proofs
end
